-- ==== Sys2Proof/Word.lean ====
section
/-!
DEFINITION. The value types of the tcpy codec block: unsigned values of a stated width, and byte strings (R9, R10, R12).
-/

namespace Sys2Proof

/-- One byte of a wire format; bit 7 is its most significant bit (R11). -/
abbrev Byte := BitVec 8

/-- A byte string; index 0 is the first byte on the wire (R12). -/
abbrev Bytes := List Byte

/-- A 48-bit link address; bits 47:40 are its first byte on the wire (R25, R37). -/
abbrev Mac := BitVec 48

/-- A 32-bit IPv4 address; bits 31:24 are its first byte on the wire (R25, R37). -/
abbrev Ip := BitVec 32

end Sys2Proof
end

