-- ==== Sys2Proof/Syntax.lean ====
section
/-!
DEFINITION. The syntax of the command set: the typed records commands take and return (R28 to R33), the 25 commands with their
typed operands (R53, R55), and what stands on the command and operand ports (R51).
-/

namespace Sys2Proof

/-- An Ethernet frame (R28). -/
structure EthernetFrame where
  dstMac    : Mac
  srcMac    : Mac
  ethertype : BitVec 16
  payload   : Bytes
  deriving DecidableEq, Repr

/-- An ARP message (R29). -/
structure ArpMessage where
  hwType    : BitVec 16
  protoType : BitVec 16
  hwSize    : BitVec 8
  protoSize : BitVec 8
  opcode    : BitVec 16
  payload   : Bytes
  deriving DecidableEq, Repr

/-- The IPv4 body of an ARP message (R30). -/
structure ArpIPv4Body where
  senderMac : Mac
  senderIp  : Ip
  targetMac : Mac
  targetIp  : Ip
  deriving DecidableEq, Repr

/-- An IPv4 header with its options and payload (R31). -/
structure IPv4Header where
  version        : BitVec 4
  ihl            : BitVec 4
  tos            : BitVec 8
  totalLen       : BitVec 16
  id             : BitVec 16
  flags          : BitVec 3
  fragmentOffset : BitVec 13
  ttl            : BitVec 8
  protocol       : BitVec 8
  checksum       : BitVec 16
  srcAddr        : Ip
  dstAddr        : Ip
  options        : Bytes
  payload        : Bytes
  deriving DecidableEq, Repr

/-- An ICMPv4 message (R32). -/
structure Icmpv4Header where
  type     : BitVec 8
  code     : BitVec 8
  checksum : BitVec 16
  data     : Bytes
  deriving DecidableEq, Repr

/-- A TCP segment; the four reserved bits of the wire format have no field (R33). -/
structure TcpHeader where
  srcPort    : BitVec 16
  dstPort    : BitVec 16
  seq        : BitVec 32
  ack        : BitVec 32
  dataOffset : BitVec 4
  flags      : BitVec 8
  window     : BitVec 16
  checksum   : BitVec 16
  urgentPtr  : BitVec 16
  options    : Bytes
  payload    : Bytes
  deriving DecidableEq, Repr

/-- The commands of R53, each with the operands R55 gives it. -/
inductive Instr where
  | csumSum16 (b : Bytes) (carry : BitVec 32)
  | csumChecksum (b : Bytes) (carry : BitVec 32)
  | csumVerify (b : Bytes) (carry : BitVec 32)
  | csumPseudo (src dst : Ip) (seglen : BitVec 16)
  | ethDecode (b : Bytes)
  | ethEncode (f : EthernetFrame)
  | arpDecode (b : Bytes)
  | arpEncode (m : ArpMessage)
  | arpv4Decode (b : Bytes)
  | arpv4Encode (a : ArpIPv4Body)
  | ipv4Decode (b : Bytes)
  | ipv4Encode (h : IPv4Header)
  | ipv4EncodeFill (h : IPv4Header)
  | icmpDecode (b : Bytes)
  | icmpEncode (h : Icmpv4Header)
  | icmpEncodeFill (h : Icmpv4Header)
  | tcpDecode (b : Bytes)
  | tcpDecodeCheck (b : Bytes) (src dst : Ip)
  | tcpEncode (h : TcpHeader)
  | tcpEncodeFill (h : TcpHeader) (src dst : Ip)
  | arpLookup (ip : Ip)
  | arpUpdate (ptype : BitVec 16) (ip : Ip) (mac : Mac)
  | arpInsert (ptype : BitVec 16) (ip : Ip) (mac : Mac)
  | arpMerge (ptype : BitVec 16) (ip : Ip) (mac : Mac)
  | arpProcess (b : Bytes)
  deriving DecidableEq, Repr

/-- The operand ports: one for each operand name and type of R55. A command reads the ports R55 names for it and no other
(log entry 5). The fields' values here are those of a port that carries nothing: zero, or the empty string. -/
structure OperandPorts where
  b      : Bytes := []
  carry  : BitVec 32 := 0#32
  src    : Ip := 0#32
  dst    : Ip := 0#32
  seglen : BitVec 16 := 0#16
  f      : EthernetFrame := ⟨0#48, 0#48, 0#16, []⟩
  m      : ArpMessage := ⟨0#16, 0#16, 0#8, 0#8, 0#16, []⟩
  a      : ArpIPv4Body := ⟨0#48, 0#32, 0#48, 0#32⟩
  ipv4   : IPv4Header := ⟨0#4, 0#4, 0#8, 0#16, 0#16, 0#3, 0#13, 0#8, 0#8, 0#16, 0#32, 0#32, [], []⟩
  icmp   : Icmpv4Header := ⟨0#8, 0#8, 0#16, []⟩
  tcp    : TcpHeader := ⟨0#16, 0#16, 0#32, 0#32, 0#4, 0#8, 0#16, 0#16, 0#16, [], []⟩
  ptype  : BitVec 16 := 0#16
  ip     : Ip := 0#32
  mac    : Mac := 0#48
  deriving DecidableEq, Repr

/-- One command as the host presents it: the CMD8 code on the command port and what the operand ports carry (R51, R52). -/
structure Command where
  op       : BitVec 8
  operands : OperandPorts
  deriving DecidableEq, Repr

end Sys2Proof
end

