-- ==== Sys2Proof/Decode.lean ====
section
/-!
DEFINITION. Command decoding (R52 to R55), total over all 256 codes, and the encoder written from the same map.
-/

namespace Sys2Proof

/-- Why a command has no instruction. -/
inductive DecodeError where
  /-- The code is one of the 231 reserved ones (R54); the machine answers it with ILLEGAL_COMMAND, or refuses it for an
  operand over BUF_LEN (R134), so it is safe. -/
  | reservedCode (op : BitVec 8)
  deriving DecidableEq, Repr

/-- The command map of R53: each code with the operand ports R55 names for it. -/
def commandMap : List (BitVec 8 × (OperandPorts → Instr)) :=
  [ (0x01#8, fun p => .csumSum16 p.b p.carry),
    (0x02#8, fun p => .csumChecksum p.b p.carry),
    (0x03#8, fun p => .csumVerify p.b p.carry),
    (0x04#8, fun p => .csumPseudo p.src p.dst p.seglen),
    (0x10#8, fun p => .ethDecode p.b),
    (0x11#8, fun p => .ethEncode p.f),
    (0x12#8, fun p => .arpDecode p.b),
    (0x13#8, fun p => .arpEncode p.m),
    (0x14#8, fun p => .arpv4Decode p.b),
    (0x15#8, fun p => .arpv4Encode p.a),
    (0x20#8, fun p => .ipv4Decode p.b),
    (0x21#8, fun p => .ipv4Encode p.ipv4),
    (0x22#8, fun p => .ipv4EncodeFill p.ipv4),
    (0x24#8, fun p => .icmpDecode p.b),
    (0x25#8, fun p => .icmpEncode p.icmp),
    (0x26#8, fun p => .icmpEncodeFill p.icmp),
    (0x30#8, fun p => .tcpDecode p.b),
    (0x31#8, fun p => .tcpDecodeCheck p.b p.src p.dst),
    (0x32#8, fun p => .tcpEncode p.tcp),
    (0x33#8, fun p => .tcpEncodeFill p.tcp p.src p.dst),
    (0x40#8, fun p => .arpLookup p.ip),
    (0x41#8, fun p => .arpUpdate p.ptype p.ip p.mac),
    (0x42#8, fun p => .arpInsert p.ptype p.ip p.mac),
    (0x43#8, fun p => .arpMerge p.ptype p.ip p.mac),
    (0x44#8, fun p => .arpProcess p.b) ]

/-- The rows of a command map that a code selects: the first one whose code is the whole 8-bit value (R52). -/
def selectRow (op : BitVec 8) : List (BitVec 8 × (OperandPorts → Instr)) → Option (OperandPorts → Instr)
  | [] => none
  | row :: rows => if op = row.1 then some row.2 else selectRow op rows

/-- Decoding a presented command: the code selects the command (R52), the named ports give its operands (R55). -/
def decode (c : Command) : Except DecodeError Instr :=
  match selectRow c.op commandMap with
  | some operandsOf => .ok (operandsOf c.operands)
  | none => .error (.reservedCode c.op)

/-- The code of a command and its operands on their ports; a port the command does not read carries nothing. -/
def encode : Instr → Command
  | .csumSum16 b carry => ⟨0x01#8, { b := b, carry := carry }⟩
  | .csumChecksum b carry => ⟨0x02#8, { b := b, carry := carry }⟩
  | .csumVerify b carry => ⟨0x03#8, { b := b, carry := carry }⟩
  | .csumPseudo src dst seglen => ⟨0x04#8, { src := src, dst := dst, seglen := seglen }⟩
  | .ethDecode b => ⟨0x10#8, { b := b }⟩
  | .ethEncode f => ⟨0x11#8, { f := f }⟩
  | .arpDecode b => ⟨0x12#8, { b := b }⟩
  | .arpEncode m => ⟨0x13#8, { m := m }⟩
  | .arpv4Decode b => ⟨0x14#8, { b := b }⟩
  | .arpv4Encode a => ⟨0x15#8, { a := a }⟩
  | .ipv4Decode b => ⟨0x20#8, { b := b }⟩
  | .ipv4Encode h => ⟨0x21#8, { ipv4 := h }⟩
  | .ipv4EncodeFill h => ⟨0x22#8, { ipv4 := h }⟩
  | .icmpDecode b => ⟨0x24#8, { b := b }⟩
  | .icmpEncode h => ⟨0x25#8, { icmp := h }⟩
  | .icmpEncodeFill h => ⟨0x26#8, { icmp := h }⟩
  | .tcpDecode b => ⟨0x30#8, { b := b }⟩
  | .tcpDecodeCheck b src dst => ⟨0x31#8, { b := b, src := src, dst := dst }⟩
  | .tcpEncode h => ⟨0x32#8, { tcp := h }⟩
  | .tcpEncodeFill h src dst => ⟨0x33#8, { tcp := h, src := src, dst := dst }⟩
  | .arpLookup ip => ⟨0x40#8, { ip := ip }⟩
  | .arpUpdate ptype ip mac => ⟨0x41#8, { ptype := ptype, ip := ip, mac := mac }⟩
  | .arpInsert ptype ip mac => ⟨0x42#8, { ptype := ptype, ip := ip, mac := mac }⟩
  | .arpMerge ptype ip mac => ⟨0x43#8, { ptype := ptype, ip := ip, mac := mac }⟩
  | .arpProcess b => ⟨0x44#8, { b := b }⟩

/-- A word of spec/opcode_table.json as a presented command: the table gives a row the 8 bits of its CMD8 code (R52) and no
operand bits, so every operand port carries nothing (log entry 5). -/
def commandOfTableWord (w : Nat) : Command := ⟨BitVec.ofNat 8 w, {}⟩

/-- The instruction the decoder reads from a table word; every row has `nbits` = 8, and no bit above the code selects anything
(R52: "The whole 8-bit value selects the command"). -/
def decodeTableWord (_nbits w : Nat) : Option Instr := (decode (commandOfTableWord w)).toOption

end Sys2Proof
end

