-- ==== Sys2Proof/Config.lean ====
section
/-!
DEFINITION. What a block instance fixes (the parameters of R8, each OPEN: a constant nothing can evaluate) and the one free
value, the eviction victim of R118. Log entries 1 and 2.
-/

namespace Sys2Proof.Config

/-- How far BUF_LEN exceeds the least value R8 admits. -/
opaque bufLenExtra : Nat

/-- BUF_LEN, the maximum length of any byte-string operand or result: a natural number not below 1514 (R8, D4).
DESIGN CHOICE, safe: written as 1514 plus an open number, so that every admitted value and no other is covered (log entry 1). -/
def bufLen : Nat := bufLenExtra + 1514

/-- `none` for an unbounded table, `some n` for a bound of n + 1 entries. -/
opaque arpCapacityExtra : Option Nat

/-- ARP_CAPACITY: `none`, or `some N` with N at least 1 (R8, D17).
DESIGN CHOICE, safe: N is written as an open number plus 1 (log entry 1). -/
def arpCapacity : Option Nat := arpCapacityExtra.map (· + 1)

/-- The parameter HOST_MAC (R8, D22). -/
opaque hostMac : Mac

/-- The parameter HOST_IP (R8, D22). -/
opaque hostIp : Ip

/-- ARP_TARGET_CHECK: whether ARP_PROCESS answers only requests whose target IP is HOST_IP (R8, D19). -/
opaque arpTargetCheck : Bool

/-- FREE VALUE: the draw of R118, one number for each eviction; taken modulo the number of present keys it names the victim.
Nothing constrains it, so no victim order (LRU, FIFO or any other) is fixed (R24, D17; log entry 2). -/
opaque victimDraw : Nat → Nat

end Sys2Proof.Config
end

