-- ==== Sys2Proof/Machine/State.lean ====
section
/-!
DEFINITION. The block's state as plain data (R21, R22, R25, R35, R51), the response record (R27), the refusals (R134) and the
state after reset (R35, R145).
-/

namespace Sys2Proof.Machine

/-- The statuses of R129. `unhandledProtocol` is part of the taxonomy and no command returns it. -/
inductive Status where
  | ok | truncatedInput | invalidChecksum | unsupportedLayer | unresolvedAddress | unhandledEthertype | unhandledProtocol
  | illegalCommand
  deriving DecidableEq, Repr

/-- The values of the `kind` flag (R27, R71). -/
inductive Kind where
  | arp | ipv4 | icmp | tcp | other
  deriving DecidableEq, Repr

/-- A command's result, by the type its rule gives it (R55). -/
inductive Result where
  /-- CSUM_SUM16: the folded sum zero-extended to 32 bits (R80). -/
  | value32 (v : BitVec 32)
  /-- CSUM_CHECKSUM, CSUM_PSEUDO (R81, R83). -/
  | value16 (v : BitVec 16)
  /-- ARP_LOOKUP (R119). -/
  | mac (m : Mac)
  /-- The encoders. -/
  | bytes (b : Bytes)
  | ethernet (f : EthernetFrame)
  | arp (m : ArpMessage)
  | arpv4 (a : ArpIPv4Body)
  | ipv4 (h : IPv4Header)
  | icmp (h : Icmpv4Header)
  | tcp (h : TcpHeader)
  /-- ARP_PROCESS: an optional reply frame (R124). -/
  | reply (frame : Option Bytes)
  deriving DecidableEq, Repr

/-- The response record of R27. A result or a flag that the command does not write is absent. -/
structure Response where
  status    : Status
  result    : Option Result := none
  supported : Option Bool := none
  kind      : Option Kind := none
  matched   : Option Bool := none
  valid     : Option Bool := none
  deriving DecidableEq, Repr

/-- A key of the ARP table (R22). -/
structure ArpKey where
  ptype : BitVec 16
  ip    : Ip
  deriving DecidableEq, Repr

/-- The 48-bit number ptype ‖ ip, by which the table's list is ordered. It is not architectural (R24). -/
def ArpKey.rank (k : ArpKey) : Nat := k.ptype.toNat * 2 ^ 32 + k.ip.toNat

/-- One entry of the ARP table (R22). -/
structure ArpEntry where
  key : ArpKey
  mac : Mac
  deriving DecidableEq, Repr

/-- The ARP table ARPT, a finite partial map (R22), as the list of its entries in rising order of key (log entry 10). -/
abbrev ArpTable := List ArpEntry

/-- The canonical form of a table: keys strictly rising, hence at most one entry for a key, and equal maps are equal lists. -/
abbrev ArpTable.wf (t : ArpTable) : Prop := t.Pairwise fun x y => x.key.rank < y.key.rank

/-- The complete state: the persistent state of R21, the ports and the reset input of R51, and the model's own draw counter. -/
structure State where
  /-- ARPT (R22). -/
  arpt       : ArpTable
  /-- HOST_MAC (R25). -/
  hostMac    : Mac
  /-- HOST_IP (R25). -/
  hostIp     : Ip
  /-- The command and operand ports: the command in flight, if there is one (R19, R35, R51). -/
  command    : Option Command
  /-- The response port (R27, R35, R51; log entry 3). -/
  response   : Option Response
  /-- Whether the reset input is asserted (R51, R145; log entry 4). -/
  resetInput : Bool
  /-- How many eviction victims have been drawn: the model's own field (R118; log entry 2). -/
  draws      : Nat
  deriving DecidableEq, Repr

/-- No command outcome stops the block (R128), so there is no fault. Safe (log entry 14). -/
inductive Fault where
  deriving DecidableEq, Repr

/-- The commands the model has no step for (log entry 11). -/
inductive Refusal where
  /-- Raised by an arm of `exec` whose instruction has no meaning in the model. No arm does. Safe. -/
  | notModelled (mnemonic : String)
  /-- OVERSIZE of R134: a byte-string operand or an encoded result longer than BUF_LEN, a reserved code's operand too; raised by
  `admitLength`. The spec gives the command no step and no response there (D4). Safe. -/
  | oversize
  /-- SEGMENT_TOO_LONG of R134: a TCP segment over 0xFFFF bytes in TCP_DECODE_CHECK or TCP_ENCODE_FILL (R110); raised by their
  meanings. Safe. -/
  | segmentTooLong
  deriving DecidableEq, Repr

/-- The state after reset (R35, R145): ARPT empty, HOST_MAC and HOST_IP from the parameters, nothing on the ports.
DESIGN CHOICE: the reset input reads as not asserted (log entry 4) and no victim has been drawn (log entry 2). -/
def State.reset : State where
  arpt := []
  hostMac := Config.hostMac
  hostIp := Config.hostIp
  command := none
  response := none
  resetInput := false
  draws := 0

end Sys2Proof.Machine
end

