-- ==== Sys2Proof/Machine/Operands.lean ====
section
/-!
DEFINITION. The byte-string primitives of R12 and R13, the block's only "memory" primitives: big-endian reads and images, and
sub-strings. A read whose field runs past the end of the string takes the bytes that are there; every command tests the length
first, so no command makes one (log entry 15).
-/

namespace Sys2Proof.Machine

/-- `B[i]` (R12). -/
def byteAt (b : Bytes) (i : Nat) : Byte := b.getD i 0#8

/-- `B[x..y)` (R12). -/
def slice (b : Bytes) (x y : Nat) : Bytes := (b.take y).drop x

/-- The number a byte string stands for, first byte most significant: the sum of R13. -/
def beNat : Bytes → Nat
  | [] => 0
  | x :: xs => (x.toNat <<< (8 * xs.length)) + beNat xs

/-- `MemRead(B, o, n)` (R13). -/
def memRead (b : Bytes) (o n : Nat) : Nat := beNat (slice b o (o + n))

def be16 (b : Bytes) (o : Nat) : BitVec 16 := BitVec.ofNat 16 (memRead b o 2)
def be32 (b : Bytes) (o : Nat) : BitVec 32 := BitVec.ofNat 32 (memRead b o 4)
def be48 (b : Bytes) (o : Nat) : BitVec 48 := BitVec.ofNat 48 (memRead b o 6)

/-- The low `n` bytes of `v`, most significant first: `bytesN` of R13. -/
def beBytes : Nat → Nat → Bytes
  | 0, _ => []
  | n + 1, v => BitVec.ofNat 8 (v >>> (8 * n)) :: beBytes n v

def u8 (v : BitVec 8) : Bytes := beBytes 1 v.toNat
def u16 (v : BitVec 16) : Bytes := beBytes 2 v.toNat
def u32 (v : BitVec 32) : Bytes := beBytes 4 v.toNat
def u48 (v : BitVec 48) : Bytes := beBytes 6 v.toNat

/-- `MemWrite(B, o, 2, v)` (R13), the only width the block writes in place (R79). -/
def memWrite16 (b : Bytes) (o : Nat) (v : BitVec 16) : Bytes := slice b 0 o ++ u16 v ++ b.drop (o + 2)

/-- The high nibble `v[7:4]` of a byte, the field listed first (R67). -/
def highNibble (v : BitVec 8) : BitVec 4 := v.extractLsb' 4 4

/-- The low nibble `v[3:0]` of a byte (R67). -/
def lowNibble (v : BitVec 8) : BitVec 4 := v.extractLsb' 0 4

/-- `hi << 4 | lo` (R67). -/
def packNibbles (hi lo : BitVec 4) : BitVec 8 := hi ++ lo

/-- `word6[15:13]` (R61, R67). -/
def flagsOf (w : BitVec 16) : BitVec 3 := w.extractLsb' 13 3

/-- `word6[12:0]` (R61, R67). -/
def fragmentOffsetOf (w : BitVec 16) : BitVec 13 := w.extractLsb' 0 13

/-- `flags << 13 | fragment_offset` (R67). -/
def packFragment (flags : BitVec 3) (offset : BitVec 13) : BitVec 16 := flags ++ offset

/-- The byte offset that separates options from payload: a length in 32-bit words times 4, and not below the 20 fixed bytes
(R61, R64, R68). -/
def headerLength (words : BitVec 4) : Nat := max (words.toNat * 4) 20

end Sys2Proof.Machine
end

