-- ==== Sys2Proof/Machine/Checksum.lean ====
section
/-!
DEFINITION. The functions of the checksum engine (R73 to R79), which its own commands and the codecs share.
-/

namespace Sys2Proof.Machine

/-- The loop of R73 with a bound on its passes: while s >> 16 is not 0, s becomes (s & 0xFFFF) + (s >> 16). -/
def foldLoop : Nat → Nat → Nat
  | 0, s => s
  | passes + 1, s => if s >>> 16 = 0 then s else foldLoop passes ((s &&& 0xFFFF) + (s >>> 16))

/-- `fold(s)` (R73). Each pass that runs makes s smaller, so s passes are enough. -/
def fold (s : Nat) : Nat := foldLoop s s

/-- `words(B)` (R74): 16-bit big-endian words, an odd trailing byte taken as the high byte of a padded word. -/
def words : Bytes → List (BitVec 16)
  | [] => []
  | [x] => [x ++ 0#8]
  | x :: y :: rest => (x ++ y) :: words rest

/-- The sum of a byte string's words, over the naturals (R75). -/
def wordSum (b : Bytes) : Nat := ((words b).map BitVec.toNat).sum

/-- `sum16(B, c)` (R75). -/
def sum16 (b : Bytes) (c : BitVec 32) : BitVec 16 := BitVec.ofNat 16 (fold (c.toNat + wordSum b))

/-- `checksum(B, c)` (R76). -/
def checksum (b : Bytes) (c : BitVec 32) : BitVec 16 := 0xFFFF#16 - sum16 b c

/-- `csum_ok(B, c)` (R77). -/
def csumOk (b : Bytes) (c : BitVec 32) : Bool := sum16 b c = 0xFFFF#16

/-- `pseudo(src, dst, n)` (R78): the folded sum of the address words, the word 0x0006 and the segment length (R66). -/
def pseudo (src dst : Ip) (n : BitVec 16) : BitVec 16 :=
  BitVec.ofNat 16 (fold ((src.extractLsb' 16 16).toNat + (src.extractLsb' 0 16).toNat + (dst.extractLsb' 16 16).toNat
    + (dst.extractLsb' 0 16).toNat + 0x0006 + n.toNat))

/-- The pseudo-header sum as the 32-bit start carry of a TCP checksum, for a segment of `n` bytes (R75, R110). -/
def tcpCarry (src dst : Ip) (n : Nat) : BitVec 32 := (pseudo src dst (BitVec.ofNat 16 n)).setWidth 32

/-- `fill(E, o, c)` (R79): zero the field at offset o, compute the checksum over the zeroed image, set the field, in this order. -/
def fill (e : Bytes) (o : Nat) (c : BitVec 32) : Bytes :=
  memWrite16 (memWrite16 e o 0#16) o (checksum (memWrite16 e o 0#16) c)

end Sys2Proof.Machine
end

