-- ==== Sys2Proof/Machine/Flags.lean ====
section
/-!
DEFINITION. The response flags that are computed from a record or a buffer (R27, R71, R91, R99).
-/

namespace Sys2Proof.Machine

/-- `eth_kind(t)` (R71). -/
def ethKind (t : BitVec 16) : Kind := if t = 0x0806#16 then .arp else if t = 0x0800#16 then .ipv4 else .other

/-- `ipv4_kind(p)` (R71). -/
def ipv4Kind (p : BitVec 8) : Kind := if p = 1#8 then .icmp else if p = 6#8 then .tcp else .other

/-- `arp_supported(m)` (R91). -/
def arpSupported (m : ArpMessage) : Bool := m.hwType = 1#16 && m.protoType = 0x0800#16

/-- `ipv4_supported(h)` (R99). -/
def ipv4Supported (h : IPv4Header) : Bool := h.version = 4#4 && 5 ≤ h.ihl.toNat && h.ttl ≠ 0#8

/-- The `valid` flag of CSUM_VERIFY (R82). -/
def validFlag (b : Bytes) (carry : BitVec 32) : Bool := csumOk b carry

end Sys2Proof.Machine
end

