-- ==== Sys2Proof/Machine/Ops.lean ====
section
/-!
DEFINITION. The operations the meanings share: admitting a command (R134), answering it (R14, R27, R133), reading and writing the
ARP table (R22, R118), and the reset event (R145).
-/

namespace Sys2Proof.Machine

/-- What one command or one step ends in. -/
abbrev Out := Host.Outcome State Fault Refusal

/-! ### Responses -/

/-- `return OK(result)` (R14). -/
def okWith (r : Result) : Response := { status := .ok, result := some r }

/-- `return OK()` (R14). -/
def okEmpty : Response := { status := .ok }

/-- `raise <Status>()` (R14): a status with no result. This is all an error does: no state is saved, no mode changes and no
vector is taken (R133). -/
def raise (st : Status) : Response := { status := st }

/-- The end of a command: its response stands on the response port, and the command and operand ports hold nothing (R19, R51). -/
def answer (r : Response) (s : State) : State := { s with command := none, response := some r }

/-- A command that ends with a response (R27). -/
def respond (r : Response) (s : State) : Out := .next (answer r s)

/-! ### The admitted domain -/

/-- A byte string of `n` bytes fits BUF_LEN (R34). Every BUF_LEN that R8 admits holds 1514 bytes, so the first test is implied
by the second (`fits_iff`); it lets a short string be evaluated without knowing BUF_LEN. -/
def fits (n : Nat) : Bool := decide (n ≤ 1514) || decide (n ≤ Config.bufLen)

/-- A byte string of `n` bytes, operand or result, is admitted when it fits BUF_LEN; otherwise the command is refused, before
every check of its own (R34, R132, R134). -/
def admitLength (n : Nat) (go : Out) : Out := if fits n then go else .refused .oversize

/-- The byte strings the operand ports carry: the byte-string port's, and those in the records (R34, R51). -/
def portBytes (p : OperandPorts) : List Bytes :=
  [p.b, p.f.payload, p.m.payload, p.ipv4.options, p.ipv4.payload, p.icmp.data, p.tcp.options, p.tcp.payload]

/-- The length of the longest of some byte strings. -/
def longest (bs : List Bytes) : Nat := bs.foldr (fun b n => max b.length n) 0

/-- A segment whose length has a pseudo-header word goes on; a longer one is refused (R110, R134). -/
def admitSegment (n : Nat) (go : Out) : Out := if n ≤ 0xFFFF then go else .refused .segmentTooLong

/-- An encoder returns its bytes (R34, R134). -/
def returnBytes (out : Bytes) (s : State) : Out := admitLength out.length (respond (okWith (.bytes out)) s)

/-! ### The ARP table -/

/-- `ARPT(k)` (R22). -/
def arptGet (t : ArpTable) (k : ArpKey) : Option Mac :=
  match t with
  | [] => none
  | e :: rest => if e.key = k then some e.mac else arptGet rest k

/-- `k ∈ dom(ARPT)` (R22). -/
def arptHas (t : ArpTable) (k : ArpKey) : Bool := (arptGet t k).isSome

/-- `T[k ↦ m]`, or `T ∪ {k ↦ m}` where k is absent (R118), keeping the list in rising order of key. -/
def arptSet (t : ArpTable) (k : ArpKey) (m : Mac) : ArpTable :=
  match t with
  | [] => [⟨k, m⟩]
  | e :: rest =>
    if e.key = k then ⟨k, m⟩ :: rest
    else if k.rank < e.key.rank then ⟨k, m⟩ :: e :: rest
    else e :: arptSet rest k m

/-- The table has a bound and has reached it (R118; log entry 13). -/
def arptFull (cap : Option Nat) (t : ArpTable) : Bool :=
  match cap with
  | none => false
  | some n => decide (n ≤ t.length)

/-- `T − {v}` for the victim v that a draw names (R118): any present key, under no law. -/
def arptEvict (t : ArpTable) (draw : Nat) : ArpTable := t.eraseIdx (draw % t.length)

/-- A put of k draws a victim: k is absent and the table is full (R118). -/
def putDraws (cap : Option Nat) (t : ArpTable) (k : ArpKey) : Bool := !arptHas t k && arptFull cap t

/-- `put(T, k, m)` (R118). -/
def arptPut (cap : Option Nat) (draw : Nat) (t : ArpTable) (k : ArpKey) (m : Mac) : ArpTable :=
  if putDraws cap t k then arptSet (arptEvict t draw) k m else arptSet t k m

/-- `ARPT <- put(ARPT, k, m)` (R118), with this instance's capacity; a draw reads and advances the counter (log entry 2). -/
def putEntry (k : ArpKey) (m : Mac) (s : State) : State :=
  { s with
    arpt := arptPut Config.arpCapacity (Config.victimDraw s.draws) s.arpt k m
    draws := if putDraws Config.arpCapacity s.arpt k then s.draws + 1 else s.draws }

/-- `ARPT <- ARPT[k ↦ m]` for a present key (R120). -/
def overwriteEntry (k : ArpKey) (m : Mac) (s : State) : State := { s with arpt := arptSet s.arpt k m }

/-! ### Events that are not commands -/

/-- The reset event of R145. The model's own draw counter goes on, so that no draw is made twice (log entry 4). -/
def applyReset (s : State) : State := { State.reset with draws := s.draws }

/-- A reserved code (R54): it ignores its operands and answers ILLEGAL_COMMAND with no result. Like any command it is refused
before that when an operand is over BUF_LEN (R34, R132, R134, R144); R55 names no operands for it, so every byte string on its
operand ports is measured (log entry 9). -/
def execReserved (p : OperandPorts) (s : State) : Out :=
  admitLength (longest (portBytes p)) (respond (raise .illegalCommand) s)

end Sys2Proof.Machine
end

