-- ==== Sys2Proof/Machine/Link.lean ====
section
/-!
DEFINITION. The link-layer codecs: Ethernet, ARP and the ARPv4 body (R58 to R60, R88 to R96).
-/

namespace Sys2Proof.Machine

/-! ### Ethernet -/

/-- The fields of a frame of at least 14 bytes (R58, R88). -/
def ethParse (b : Bytes) : EthernetFrame where
  dstMac := be48 b 0
  srcMac := be48 b 6
  ethertype := be16 b 12
  payload := b.drop 14

/-- The response of ETH_DECODE (R88). -/
def ethDecode (b : Bytes) : Response :=
  if b.length < 14 then raise .truncatedInput
  else { okWith (.ethernet (ethParse b)) with kind := some (ethKind (ethParse b).ethertype) }

/-- The bytes of ETH_ENCODE (R89): no padding and no frame check sequence is added (D21). -/
def ethEncode (f : EthernetFrame) : Bytes := u48 f.dstMac ++ u48 f.srcMac ++ u16 f.ethertype ++ f.payload

/-- ETH_DECODE (R88). -/
def execEthDecode (b : Bytes) (s : State) : Out := admitLength b.length (respond (ethDecode b) s)

/-- ETH_ENCODE (R89). -/
def execEthEncode (f : EthernetFrame) (s : State) : Out := returnBytes (ethEncode f) s

/-! ### ARP -/

/-- The fields of a message of at least 8 bytes (R59, R92). -/
def arpParse (b : Bytes) : ArpMessage where
  hwType := be16 b 0
  protoType := be16 b 2
  hwSize := byteAt b 4
  protoSize := byteAt b 5
  opcode := be16 b 6
  payload := b.drop 8

/-- The response of ARP_DECODE (R92): opcode, hw_size and proto_size are not checked (D15, D29). -/
def arpDecode (b : Bytes) : Response :=
  if b.length < 8 then raise .truncatedInput
  else { okWith (.arp (arpParse b)) with supported := some (arpSupported (arpParse b)) }

/-- The bytes of ARP_ENCODE (R93), every field verbatim. -/
def arpEncode (m : ArpMessage) : Bytes :=
  u16 m.hwType ++ u16 m.protoType ++ u8 m.hwSize ++ u8 m.protoSize ++ u16 m.opcode ++ m.payload

/-- ARP_DECODE (R92). -/
def execArpDecode (b : Bytes) (s : State) : Out := admitLength b.length (respond (arpDecode b) s)

/-- ARP_ENCODE (R93). -/
def execArpEncode (m : ArpMessage) (s : State) : Out := returnBytes (arpEncode m) s

/-! ### The ARPv4 body -/

/-- The fields of a body of at least 20 bytes (R60, R95); bytes after offset 20 are ignored (D15). -/
def arpv4Parse (b : Bytes) : ArpIPv4Body where
  senderMac := be48 b 0
  senderIp := be32 b 6
  targetMac := be48 b 10
  targetIp := be32 b 16

/-- The response of ARPV4_DECODE (R95). -/
def arpv4Decode (b : Bytes) : Response :=
  if b.length < 20 then raise .truncatedInput else okWith (.arpv4 (arpv4Parse b))

/-- The bytes of ARPV4_ENCODE (R96), always 20. -/
def arpv4Encode (a : ArpIPv4Body) : Bytes := u48 a.senderMac ++ u32 a.senderIp ++ u48 a.targetMac ++ u32 a.targetIp

/-- ARPV4_DECODE (R95). -/
def execArpv4Decode (b : Bytes) (s : State) : Out := admitLength b.length (respond (arpv4Decode b) s)

/-- ARPV4_ENCODE (R96). -/
def execArpv4Encode (a : ArpIPv4Body) (s : State) : Out := returnBytes (arpv4Encode a) s

end Sys2Proof.Machine
end

