-- ==== Sys2Proof/Machine/Arp.lean ====
section
/-!
DEFINITION. The commands of the ARP resolution table (R118 to R124).
-/

namespace Sys2Proof.Machine

/-- ARP_LOOKUP (R119): the protocol type is 0x0800 (D16). -/
def execArpLookup (ip : Ip) (s : State) : Out :=
  match arptGet s.arpt ⟨0x0800#16, ip⟩ with
  | some m => respond (okWith (.mac m)) s
  | none => respond (raise .unresolvedAddress) s

/-- ARP_UPDATE (R120): a miss is a result, not an error, and leaves the table unchanged. -/
def execArpUpdate (ptype : BitVec 16) (ip : Ip) (mac : Mac) (s : State) : Out :=
  if arptHas s.arpt ⟨ptype, ip⟩ then
    respond { okEmpty with matched := some true } (overwriteEntry ⟨ptype, ip⟩ mac s)
  else respond { okEmpty with matched := some false } s

/-- ARP_INSERT (R121): an unconditional set. -/
def execArpInsert (ptype : BitVec 16) (ip : Ip) (mac : Mac) (s : State) : Out :=
  respond okEmpty (putEntry ⟨ptype, ip⟩ mac s)

/-- ARP_MERGE (R122): `matched` says whether the key was present before the command. -/
def execArpMerge (ptype : BitVec 16) (ip : Ip) (mac : Mac) (s : State) : Out :=
  respond { okEmpty with matched := some (arptHas s.arpt ⟨ptype, ip⟩) } (putEntry ⟨ptype, ip⟩ mac s)

/-! ### ARP_PROCESS -/

/-- The message and the body of an inbound frame, or the first of the checks 1 to 4 of R124 that fails. -/
def arpInbound (b : Bytes) : Except Status (ArpMessage × ArpIPv4Body) :=
  if b.length < 14 then .error .truncatedInput
  else if be16 b 12 ≠ 0x0806#16 then .error .unhandledEthertype
  else if (b.drop 14).length < 8 then .error .truncatedInput
  else if (arpParse (b.drop 14)).payload.length < 20 then .error .truncatedInput
  else .ok (arpParse (b.drop 14), arpv4Parse (arpParse (b.drop 14)).payload)

/-- `reply_body(a)` (R123). -/
def replyBody (hostMac : Mac) (hostIp : Ip) (a : ArpIPv4Body) : ArpIPv4Body where
  senderMac := hostMac
  senderIp := hostIp
  targetMac := a.senderMac
  targetIp := a.senderIp

/-- The reply frame `out` of R124: addressed to the body's sender (D20), its ARP payload exactly the 20-byte body (D35). -/
def arpReplyFrame (hostMac : Mac) (hostIp : Ip) (m : ArpMessage) (a : ArpIPv4Body) : Bytes :=
  u48 a.senderMac ++ u48 hostMac ++ u16 0x0806#16
    ++ arpEncode { m with opcode := 2#16, payload := arpv4Encode (replyBody hostMac hostIp a) }

/-- Whether a supported message is answered: it is a Request, and its target passes ARP_TARGET_CHECK (R124, D19, D29). -/
def arpAnswers (targetCheck : Bool) (hostIp : Ip) (m : ArpMessage) (a : ArpIPv4Body) : Bool :=
  m.opcode = 1#16 && !(a.targetIp ≠ hostIp && targetCheck)

/-- The response of ARP_PROCESS to a message that passed the checks (R124); `hit` says whether its sender was in the table. -/
def arpProcessed (targetCheck : Bool) (hostMac : Mac) (hostIp : Ip) (m : ArpMessage) (a : ArpIPv4Body) (hit : Bool) : Response :=
  if arpSupported m = false then { raise .unsupportedLayer with supported := some false, matched := some hit }
  else if arpAnswers targetCheck hostIp m a then
    { okWith (.reply (some (arpReplyFrame hostMac hostIp m a))) with supported := some true, matched := some hit }
  else { okWith (.reply none) with supported := some true, matched := some hit }

/-- The key an inbound message's sender is merged under (R124): the message's own protocol type. -/
def senderKey (m : ArpMessage) (a : ArpIPv4Body) : ArpKey := ⟨m.protoType, a.senderIp⟩

/-- ARP_PROCESS (R124): the checks, the merge, then the reply. The reply frame is 42 bytes, so it fits every BUF_LEN that R8
admits. -/
def execArpProcess (b : Bytes) (s : State) : Out :=
  admitLength b.length
    (match arpInbound b with
     | .error st => respond (raise st) s
     | .ok (m, a) =>
       respond (arpProcessed Config.arpTargetCheck s.hostMac s.hostIp m a (arptHas s.arpt (senderKey m a)))
         (putEntry (senderKey m a) a.senderMac s))

end Sys2Proof.Machine
end

