-- ==== Sys2Proof/Machine/Csum.lean ====
section
/-!
DEFINITION. The meanings of the checksum family (R80 to R83).
-/

namespace Sys2Proof.Machine

/-- CSUM_SUM16 (R80); the result is zext_32 of the folded sum (log entry 7). -/
def execCsumSum16 (b : Bytes) (carry : BitVec 32) (s : State) : Out :=
  admitLength b.length (respond (okWith (.value32 ((sum16 b carry).setWidth 32))) s)

/-- CSUM_CHECKSUM (R81). -/
def execCsumChecksum (b : Bytes) (carry : BitVec 32) (s : State) : Out :=
  admitLength b.length (respond (okWith (.value16 (checksum b carry))) s)

/-- CSUM_VERIFY (R82): an invalid buffer is a result, not an error. -/
def execCsumVerify (b : Bytes) (carry : BitVec 32) (s : State) : Out :=
  admitLength b.length (respond { okEmpty with valid := some (validFlag b carry) } s)

/-- CSUM_PSEUDO (R83). -/
def execCsumPseudo (src dst : Ip) (seglen : BitVec 16) (s : State) : Out :=
  respond (okWith (.value16 (pseudo src dst seglen))) s

end Sys2Proof.Machine
end

