-- ==== Sys2Proof/Machine/Ip.lean ====
section
/-!
DEFINITION. The IPv4 and ICMPv4 codecs (R61 to R63, R98 to R107).
-/

namespace Sys2Proof.Machine

/-! ### IPv4 -/

/-- The fields of a packet whose header is `hl` bytes long, options included (R61, R100). The payload runs to the end of the
input and total_len does not cut it (D6). -/
def ipv4Parse (b : Bytes) (hl : Nat) : IPv4Header where
  version := highNibble (byteAt b 0)
  ihl := lowNibble (byteAt b 0)
  tos := byteAt b 1
  totalLen := be16 b 2
  id := be16 b 4
  flags := flagsOf (be16 b 6)
  fragmentOffset := fragmentOffsetOf (be16 b 6)
  ttl := byteAt b 8
  protocol := byteAt b 9
  checksum := be16 b 10
  srcAddr := be32 b 12
  dstAddr := be32 b 16
  options := slice b 20 hl
  payload := b.drop hl

/-- The header length that the first byte gives (R68, R100). -/
def ipv4HeaderLength (b : Bytes) : Nat := headerLength (lowNibble (byteAt b 0))

/-- An accepted packet's response (R99, R100). -/
def ipv4Accept (h : IPv4Header) : Response :=
  { okWith (.ipv4 h) with supported := some (ipv4Supported h), kind := some (ipv4Kind h.protocol) }

/-- The response of IPV4_DECODE (R100): the checksum over the first 20 bytes (R98) is tested before the header length (R132). -/
def ipv4Decode (b : Bytes) : Response :=
  if b.length < 20 then raise .truncatedInput
  else if csumOk (slice b 0 20) 0#32 = false then raise .invalidChecksum
  else if b.length < ipv4HeaderLength b then raise .truncatedInput
  else ipv4Accept (ipv4Parse b (ipv4HeaderLength b))

/-- `hdr20(h)`, the fixed image of a record (R101). -/
def hdr20 (h : IPv4Header) : Bytes :=
  u8 (packNibbles h.version h.ihl) ++ u8 h.tos ++ u16 h.totalLen ++ u16 h.id ++ u16 (packFragment h.flags h.fragmentOffset)
    ++ u8 h.ttl ++ u8 h.protocol ++ u16 h.checksum ++ u32 h.srcAddr ++ u32 h.dstAddr

/-- The bytes of IPV4_ENCODE (R102), every field verbatim (D10). -/
def ipv4Encode (h : IPv4Header) : Bytes := hdr20 h ++ h.options ++ h.payload

/-- The bytes of IPV4_ENCODE_FILL (R103): a fresh checksum over the first 20 bytes only. -/
def ipv4EncodeFill (h : IPv4Header) : Bytes := fill (hdr20 h) 10 0#32 ++ h.options ++ h.payload

/-- IPV4_DECODE (R100). -/
def execIpv4Decode (b : Bytes) (s : State) : Out := admitLength b.length (respond (ipv4Decode b) s)

/-- IPV4_ENCODE (R102). -/
def execIpv4Encode (h : IPv4Header) (s : State) : Out := returnBytes (ipv4Encode h) s

/-- IPV4_ENCODE_FILL (R103). -/
def execIpv4EncodeFill (h : IPv4Header) (s : State) : Out := returnBytes (ipv4EncodeFill h) s

/-! ### ICMPv4 -/

/-- The fields of a message of at least 4 bytes (R63, R105). -/
def icmpParse (b : Bytes) : Icmpv4Header where
  type := byteAt b 0
  code := byteAt b 1
  checksum := be16 b 2
  data := b.drop 4

/-- The response of ICMP_DECODE (R105): the checksum covers the whole message; type and code are not checked (D28). -/
def icmpDecode (b : Bytes) : Response :=
  if b.length < 4 then raise .truncatedInput
  else if csumOk b 0#32 = false then raise .invalidChecksum
  else okWith (.icmp (icmpParse b))

/-- The bytes of ICMP_ENCODE (R106), every field verbatim (D10). -/
def icmpEncode (h : Icmpv4Header) : Bytes := u8 h.type ++ u8 h.code ++ u16 h.checksum ++ h.data

/-- The bytes of ICMP_ENCODE_FILL (R107): a fresh checksum over the whole message. -/
def icmpEncodeFill (h : Icmpv4Header) : Bytes := fill (u8 h.type ++ u8 h.code ++ u16 0#16 ++ h.data) 2 0#32

/-- ICMP_DECODE (R105). -/
def execIcmpDecode (b : Bytes) (s : State) : Out := admitLength b.length (respond (icmpDecode b) s)

/-- ICMP_ENCODE (R106). -/
def execIcmpEncode (h : Icmpv4Header) (s : State) : Out := returnBytes (icmpEncode h) s

/-- ICMP_ENCODE_FILL (R107). -/
def execIcmpEncodeFill (h : Icmpv4Header) (s : State) : Out := returnBytes (icmpEncodeFill h) s

end Sys2Proof.Machine
end

