-- ==== Sys2Proof/Machine/Tcp.lean ====
section
/-!
DEFINITION. The TCP codec (R64 to R66, R110 to R116).
-/

namespace Sys2Proof.Machine

/-- `tcp_parse(B, hl)` (R111); the reserved nibble is dropped (D13). -/
def tcpParse (b : Bytes) (hl : Nat) : TcpHeader where
  srcPort := be16 b 0
  dstPort := be16 b 2
  seq := be32 b 4
  ack := be32 b 8
  dataOffset := highNibble (byteAt b 12)
  flags := byteAt b 13
  window := be16 b 14
  checksum := be16 b 16
  urgentPtr := be16 b 18
  options := slice b 20 hl
  payload := b.drop hl

/-- The header length that byte 12 gives (R68, R112). -/
def tcpHeaderLength (b : Bytes) : Nat := headerLength (highNibble (byteAt b 12))

/-- The last check and the result the two decoders share (R111 to R113). -/
def tcpSplit (b : Bytes) : Response :=
  if b.length < tcpHeaderLength b then raise .truncatedInput else okWith (.tcp (tcpParse b (tcpHeaderLength b)))

/-- The response of TCP_DECODE (R112): the checksum is not examined. -/
def tcpDecode (b : Bytes) : Response := if b.length < 20 then raise .truncatedInput else tcpSplit b

/-- The response of TCP_DECODE_CHECK from check 2 on (R113): the checksum is tested before the header length (R132). -/
def tcpVerified (b : Bytes) (src dst : Ip) : Response :=
  if csumOk b (tcpCarry src dst b.length) = false then raise .invalidChecksum else tcpSplit b

/-- `tcp20(h)`, the fixed image of a record, the reserved nibble written as 0 (R114, D13). -/
def tcp20 (h : TcpHeader) : Bytes :=
  u16 h.srcPort ++ u16 h.dstPort ++ u32 h.seq ++ u32 h.ack ++ u8 (packNibbles h.dataOffset 0#4) ++ u8 h.flags ++ u16 h.window
    ++ u16 h.checksum ++ u16 h.urgentPtr

/-- The bytes of TCP_ENCODE (R115), every field verbatim (D10). -/
def tcpEncode (h : TcpHeader) : Bytes := tcp20 h ++ h.options ++ h.payload

/-- The bytes of TCP_ENCODE_FILL (R116): a fresh checksum over the pseudo-header and the whole segment. -/
def tcpEncodeFill (h : TcpHeader) (src dst : Ip) : Bytes :=
  fill (tcpEncode { h with checksum := 0#16 }) 16 (tcpCarry src dst (tcpEncode { h with checksum := 0#16 }).length)

/-- TCP_DECODE (R112). -/
def execTcpDecode (b : Bytes) (s : State) : Out := admitLength b.length (respond (tcpDecode b) s)

/-- TCP_DECODE_CHECK (R113): check 1, then the segment length, then the rest. -/
def execTcpDecodeCheck (b : Bytes) (src dst : Ip) (s : State) : Out :=
  admitLength b.length
    (if b.length < 20 then respond (raise .truncatedInput) s
     else admitSegment b.length (respond (tcpVerified b src dst) s))

/-- TCP_ENCODE (R115). -/
def execTcpEncode (h : TcpHeader) (s : State) : Out := returnBytes (tcpEncode h) s

/-- TCP_ENCODE_FILL (R116); BUF_LEN is tested before the segment length (R132; log entry 8). -/
def execTcpEncodeFill (h : TcpHeader) (src dst : Ip) (s : State) : Out :=
  admitLength (tcpEncodeFill h src dst).length
    (admitSegment (tcpEncodeFill h src dst).length (respond (okWith (.bytes (tcpEncodeFill h src dst))) s))

end Sys2Proof.Machine
end

