-- ==== Sys2Proof/Machine/Dispatch.lean ====
section
/-! DEFINITION. One arm per command: each a direct call of its meaning (R53). -/

namespace Sys2Proof.Machine

/-- One command, executed atomically (R44). -/
def exec (i : Instr) (s : State) : Host.Outcome State Fault Refusal :=
  match i with
  | .csumSum16 b carry => Sys2Proof.Machine.execCsumSum16 b carry s
  | .csumChecksum b carry => Sys2Proof.Machine.execCsumChecksum b carry s
  | .csumVerify b carry => Sys2Proof.Machine.execCsumVerify b carry s
  | .csumPseudo src dst seglen => Sys2Proof.Machine.execCsumPseudo src dst seglen s
  | .ethDecode b => Sys2Proof.Machine.execEthDecode b s
  | .ethEncode f => Sys2Proof.Machine.execEthEncode f s
  | .arpDecode b => Sys2Proof.Machine.execArpDecode b s
  | .arpEncode m => Sys2Proof.Machine.execArpEncode m s
  | .arpv4Decode b => Sys2Proof.Machine.execArpv4Decode b s
  | .arpv4Encode a => Sys2Proof.Machine.execArpv4Encode a s
  | .ipv4Decode b => Sys2Proof.Machine.execIpv4Decode b s
  | .ipv4Encode h => Sys2Proof.Machine.execIpv4Encode h s
  | .ipv4EncodeFill h => Sys2Proof.Machine.execIpv4EncodeFill h s
  | .icmpDecode b => Sys2Proof.Machine.execIcmpDecode b s
  | .icmpEncode h => Sys2Proof.Machine.execIcmpEncode h s
  | .icmpEncodeFill h => Sys2Proof.Machine.execIcmpEncodeFill h s
  | .tcpDecode b => Sys2Proof.Machine.execTcpDecode b s
  | .tcpDecodeCheck b src dst => Sys2Proof.Machine.execTcpDecodeCheck b src dst s
  | .tcpEncode h => Sys2Proof.Machine.execTcpEncode h s
  | .tcpEncodeFill h src dst => Sys2Proof.Machine.execTcpEncodeFill h src dst s
  | .arpLookup ip => Sys2Proof.Machine.execArpLookup ip s
  | .arpUpdate ptype ip mac => Sys2Proof.Machine.execArpUpdate ptype ip mac s
  | .arpInsert ptype ip mac => Sys2Proof.Machine.execArpInsert ptype ip mac s
  | .arpMerge ptype ip mac => Sys2Proof.Machine.execArpMerge ptype ip mac s
  | .arpProcess b => Sys2Proof.Machine.execArpProcess b s

end Sys2Proof.Machine
end

