-- ==== Sys2Proof/Machine/Step.lean ====
section
/-!
DEFINITION. One step of the block: the reset input, or the command in flight, or nothing (R51, R141, R143, R145).
-/

namespace Sys2Proof.Machine

/-- One step. An asserted reset input resets the block and abandons a command in flight (R145); otherwise the command on the
port is decoded and executed (R51), a reserved code by `execReserved` (R54); with nothing on the port the block
keeps its state (R143). -/
def step (s : State) : Host.Outcome State Fault Refusal :=
  if s.resetInput then .next (applyReset s)
  else
    match s.command with
    | none => .next s
    | some c =>
      match decode c with
      | .ok i => exec i s
      | .error (.reservedCode _) => execReserved c.operands s

/-- The host presents a command: its code and operands stand on the ports (R51, R144). The host owes that none is in flight (log
entry 12). -/
def present (c : Command) (s : State) : State := { s with command := some c }

/-- `s` with the command of a table word on the ports and the reset input not asserted, so that the very next step serves it
(R51; log entry 6). -/
def State.withFetchWord (s : State) (_nbits w : Nat) : State := { present (commandOfTableWord w) s with resetInput := false }

end Sys2Proof.Machine
end

