-- ==== Sys2Proof/Machine/Session.lean ====
section
/-!
DEFINITION. The host's side of the interface (R144): asserting reset, and a session of commands issued one at a time, each after
the response to the one before (R44, R45). Any list of commands is one serialisation of several hosts' commands (R48).
-/

namespace Sys2Proof.Machine

/-- The host asserts the reset input (R51, R145). -/
def assertReset (s : State) : State := { s with resetInput := true }

/-- The host presents each command in turn and takes its response: the state after the last one and the responses in order, or
the refusal that ended the session (R45, R134). -/
def serve : List Command → State → Host.Outcome (State × List Response) Fault Refusal
  | [], s => .next (s, [])
  | c :: cs, s =>
    match step (present c s) with
    | .fault e => .fault e
    | .refused e => .refused e
    | .next t =>
      match serve cs t with
      | .fault e => .fault e
      | .refused e => .refused e
      | .next (u, rs) => .next (u, t.response.toList ++ rs)

end Sys2Proof.Machine
end

