-- ==== Sys2Proof/WellFormed.lean ====
section
/-!
DEFINITION. The admitted domain of the command set: every byte string a command takes or would return is at most BUF_LEN bytes
long (R34), and a TCP segment that enters a pseudo-header is at most 0xFFFF bytes long (R110). A command outside it is refused
(R134); the meanings make the same checks themselves, from what they compute.
-/

namespace Sys2Proof

/-- The byte-string operand of the command, or the byte string the command would return, is `n` bytes long and fits (R34). -/
def fitsBuffer (n : Nat) : Bool := decide (n ≤ Config.bufLen)

/-- The segment length has a 16-bit pseudo-header length word (R110). A TCP_DECODE_CHECK operand under 20 bytes never reaches
the length word, and fits in any case. -/
def fitsSegment (n : Nat) : Bool := decide (n ≤ 0xFFFF)

/-- The command is in the admitted domain of R34 and R134. -/
def Instr.wellFormed : Instr → Bool
  | .csumSum16 b _ => fitsBuffer b.length
  | .csumChecksum b _ => fitsBuffer b.length
  | .csumVerify b _ => fitsBuffer b.length
  | .csumPseudo _ _ _ => true
  | .ethDecode b => fitsBuffer b.length
  | .ethEncode f => fitsBuffer (14 + f.payload.length)
  | .arpDecode b => fitsBuffer b.length
  | .arpEncode m => fitsBuffer (8 + m.payload.length)
  | .arpv4Decode b => fitsBuffer b.length
  | .arpv4Encode _ => true
  | .ipv4Decode b => fitsBuffer b.length
  | .ipv4Encode h => fitsBuffer (20 + h.options.length + h.payload.length)
  | .ipv4EncodeFill h => fitsBuffer (20 + h.options.length + h.payload.length)
  | .icmpDecode b => fitsBuffer b.length
  | .icmpEncode h => fitsBuffer (4 + h.data.length)
  | .icmpEncodeFill h => fitsBuffer (4 + h.data.length)
  | .tcpDecode b => fitsBuffer b.length
  | .tcpDecodeCheck b _ _ => fitsBuffer b.length && fitsSegment b.length
  | .tcpEncode h => fitsBuffer (20 + h.options.length + h.payload.length)
  | .tcpEncodeFill h _ _ =>
    fitsBuffer (20 + h.options.length + h.payload.length) && fitsSegment (20 + h.options.length + h.payload.length)
  | .arpLookup _ => true
  | .arpUpdate _ _ _ => true
  | .arpInsert _ _ _ => true
  | .arpMerge _ _ _ => true
  | .arpProcess b => fitsBuffer b.length

end Sys2Proof
end

