-- ==== Sys2Proof/Safety.lean ====
section
/-!
DEFINITION. The terms the claims are stated in: what a good state is, what a response may hold, and which commands may touch what.
-/

namespace Sys2Proof.Safety

open Sys2Proof.Machine

/-- The byte strings a result carries (R34). -/
def resultBytes : Result → List Bytes
  | .value32 _ => []
  | .value16 _ => []
  | .mac _ => []
  | .bytes b => [b]
  | .ethernet f => [f.payload]
  | .arp m => [m.payload]
  | .arpv4 _ => []
  | .ipv4 h => [h.options, h.payload]
  | .icmp h => [h.data]
  | .tcp h => [h.options, h.payload]
  | .reply frame => frame.toList

/-- A response the block may give: every byte string in it fits BUF_LEN (R34), its status is not the one no command returns
(R129), and a status other than OK comes with no result (R129, R130). -/
def responseOk (r : Response) : Prop :=
  (∀ x ∈ r.result, ∀ b ∈ resultBytes x, b.length ≤ Config.bufLen) ∧ r.status ≠ .unhandledProtocol ∧
    (r.status ≠ .ok → r.result = none)

/-- The table holds no more entries than ARP_CAPACITY allows (R22). -/
def withinCapacity (t : ArpTable) : Prop := ∀ n ∈ Config.arpCapacity, t.length ≤ n

/-- The invariant of the block: the table is in canonical form (R22) and within capacity (R22), the host identity is the
parameters' (R25), and a response on the port is one the block may give. -/
def good (s : State) : Prop :=
  ArpTable.wf s.arpt ∧ withinCapacity s.arpt ∧ s.hostMac = Config.hostMac ∧ s.hostIp = Config.hostIp ∧
    ∀ r ∈ s.response, responseOk r

/-- The commands that may write ARPT (R23). -/
def writesArpt : Instr → Bool
  | .arpUpdate _ _ _ => true
  | .arpInsert _ _ _ => true
  | .arpMerge _ _ _ => true
  | .arpProcess _ => true
  | _ => false

/-- The commands that read ARPT (R23). -/
def readsArpt : Instr → Bool
  | .arpLookup _ => true
  | i => writesArpt i

/-- The codec and checksum commands: they read only their operands (R42). -/
def stateless (i : Instr) : Bool := !readsArpt i

/-- The statuses a command may return, as the table of R129 lists them. -/
def mayReturn : Instr → List Status
  | .ethDecode _ => [.ok, .truncatedInput]
  | .arpDecode _ => [.ok, .truncatedInput]
  | .arpv4Decode _ => [.ok, .truncatedInput]
  | .ipv4Decode _ => [.ok, .truncatedInput, .invalidChecksum]
  | .icmpDecode _ => [.ok, .truncatedInput, .invalidChecksum]
  | .tcpDecode _ => [.ok, .truncatedInput]
  | .tcpDecodeCheck _ _ _ => [.ok, .truncatedInput, .invalidChecksum]
  | .arpLookup _ => [.ok, .unresolvedAddress]
  | .arpProcess _ => [.ok, .truncatedInput, .unsupportedLayer, .unhandledEthertype]
  | _ => [.ok]

/-- The code of a status on the response port, the first column of R129's table. -/
def statusCode : Status → BitVec 8
  | .ok => 0x00#8
  | .truncatedInput => 0x01#8
  | .invalidChecksum => 0x02#8
  | .unsupportedLayer => 0x03#8
  | .unresolvedAddress => 0x04#8
  | .unhandledEthertype => 0x05#8
  | .unhandledProtocol => 0x06#8
  | .illegalCommand => 0x07#8

/-- The commands that write the `supported`, `kind`, `matched` and `valid` flags (R27). -/
def writesSupported : Instr → Bool
  | .arpDecode _ => true
  | .ipv4Decode _ => true
  | .arpProcess _ => true
  | _ => false

def writesKind : Instr → Bool
  | .ethDecode _ => true
  | .ipv4Decode _ => true
  | _ => false

def writesMatched : Instr → Bool
  | .arpUpdate _ _ _ => true
  | .arpMerge _ _ _ => true
  | .arpProcess _ => true
  | _ => false

def writesValid : Instr → Bool
  | .csumVerify _ _ => true
  | _ => false

/-- An IPv4 record is consistent: its ihl matches the length of its options (R104). -/
def ipv4Consistent (h : IPv4Header) : Prop :=
  (5 ≤ h.ihl.toNat ∧ h.options.length = h.ihl.toNat * 4 - 20) ∨ (h.ihl.toNat < 5 ∧ h.options = [])

/-- A TCP record is consistent: its data_offset matches the length of its options (R117). -/
def tcpConsistent (h : TcpHeader) : Prop :=
  (5 ≤ h.dataOffset.toNat ∧ h.options.length = h.dataOffset.toNat * 4 - 20) ∨ (h.dataOffset.toNat < 5 ∧ h.options = [])

/-- `b` with one bit flipped: bit `j` of byte `i`. -/
def flipBit (b : Bytes) (i j : Nat) : Bytes := b.modify i fun x => x ^^^ BitVec.twoPow 8 j

/-- The response a command or a step leaves on the response port, if it answers. -/
def responseOf (o : Out) : Option Response :=
  match o with
  | .next t => t.response
  | .fault _ => none
  | .refused _ => none

end Sys2Proof.Safety
end

