-- ==== Sys2Proof/Certificates/Slice0/Obligations.lean ====
section
/-!
DEFINITION. The obligations: what the block does, stated from the numbered rules of spec/. Every statement about a command gives
the whole next state, so what the next state does not mention is unchanged: that is the command's frame. `command := none` and
`response := some r` say that the command's transaction is over and r is its response (R19, R27, R51).
-/

open Sys2Proof Sys2Proof.Machine Sys2Proof.Safety

/-! ### Commands and their codes -/

/-- R52 to R55: decoding an encoded command gives it back; a decoded command re-encodes to the code it came from; and a command
is decoded exactly when its code is one of the 25 of R53. -/
def Obligations.DecodeAndEncodeAgree : Prop :=
  (∀ i : Instr, decode (encode i) = .ok i) ∧
  (∀ (c : Command) (i : Instr), decode c = .ok i →
    (encode i).op = c.op ∧ ∀ p : OperandPorts, ∃ j, decode ⟨c.op, p⟩ = .ok j ∧ (encode j).op = c.op) ∧
  (∀ c : Command, (∃ i, decode c = .ok i) ↔
    c.op.toNat ∈ [0x01, 0x02, 0x03, 0x04, 0x10, 0x11, 0x12, 0x13, 0x14, 0x15, 0x20, 0x21, 0x22, 0x24, 0x25, 0x26,
      0x30, 0x31, 0x32, 0x33, 0x40, 0x41, 0x42, 0x43, 0x44])

/-- R53 on one code of each family. The operands are those of ports that carry nothing: that such a port reads as zero or as the
empty string is the model's choice (DESIGN CHOICE, log entry 5) and no rule of the spec. -/
def Obligations.TableWordsDecode : Prop :=
  decodeTableWord 8 0x02 = some (.csumChecksum [] 0#32) ∧ decodeTableWord 8 0x14 = some (.arpv4Decode []) ∧
  decodeTableWord 8 0x24 = some (.icmpDecode []) ∧ decodeTableWord 8 0x31 = some (.tcpDecodeCheck [] 0#32 0#32) ∧
  decodeTableWord 8 0x43 = some (.arpMerge 0#16 0#32 0#48) ∧ decodeTableWord 8 0x23 = none ∧ decodeTableWord 8 0x45 = none

/-- R51, R44: a step with a command on the port is that command's execution. -/
def Obligations.StepRunsTheDecodedCommand : Prop :=
  ∀ (s : State) (c : Command) (i : Instr), s.resetInput = false → s.command = some c → decode c = .ok i → step s = exec i s

/-- R54: a reserved code ignores its operands, changes nothing and answers ILLEGAL_COMMAND with no result; 231 codes are
reserved, every one with fam at least 5 among them. R34, R132, R134: with an operand over BUF_LEN it is refused before that. That
each byte string on its ports, in a record too, counts as its operand is the model's reading (DEDUCED, log entry 9). -/
def Obligations.ReservedCodesAreIllegalCommands : Prop :=
  (∀ (s : State) (c : Command), s.resetInput = false → s.command = some c →
    c.op.toNat ∉ [0x01, 0x02, 0x03, 0x04, 0x10, 0x11, 0x12, 0x13, 0x14, 0x15, 0x20, 0x21, 0x22, 0x24, 0x25, 0x26,
      0x30, 0x31, 0x32, 0x33, 0x40, 0x41, 0x42, 0x43, 0x44] →
    ((∀ b ∈ portBytes c.operands, b.length ≤ Config.bufLen) →
      step s = .next { s with command := none, response := some { status := .illegalCommand } }) ∧
    ((∃ b ∈ portBytes c.operands, Config.bufLen < b.length) → step s = .refused .oversize)) ∧
  ((List.range 256).filter fun n => (decodeTableWord 8 n).isNone).length = 231 ∧
  (∀ c : Command, 5 ≤ (c.op.extractLsb' 4 4).toNat → decode c = .error (.reservedCode c.op))

/-! ### Byte order -/

/-- R13, R36, R37: the byte images are big-endian, and a field read back at its offset is the value written. -/
def Obligations.FieldsAreBigEndian : Prop :=
  (∀ v : BitVec 16, u16 v = [v.extractLsb' 8 8, v.extractLsb' 0 8]) ∧
  (∀ v : BitVec 32, u32 v = [v.extractLsb' 24 8, v.extractLsb' 16 8, v.extractLsb' 8 8, v.extractLsb' 0 8]) ∧
  (∀ v : BitVec 48, u48 v = [v.extractLsb' 40 8, v.extractLsb' 32 8, v.extractLsb' 24 8, v.extractLsb' 16 8,
    v.extractLsb' 8 8, v.extractLsb' 0 8]) ∧
  (∀ (p q : Bytes) (v : BitVec 16), be16 (p ++ u16 v ++ q) p.length = v) ∧
  (∀ (p q : Bytes) (v : BitVec 32), be32 (p ++ u32 v ++ q) p.length = v) ∧
  (∀ (p q : Bytes) (v : BitVec 48), be48 (p ++ u48 v ++ q) p.length = v)

/-! ### The checksum engine -/

/-- R73: the loop, that each pass that runs makes s smaller, the closed form, and when the result is 0 or 0xFFFF. -/
def Obligations.FoldIsTheEndAroundCarryLoop : Prop :=
  (∀ s : Nat, fold s = if s >>> 16 = 0 then s else fold ((s &&& 0xFFFF) + (s >>> 16))) ∧
  (∀ s : Nat, s >>> 16 ≠ 0 → (s &&& 0xFFFF) + (s >>> 16) < s) ∧
  (∀ s : Nat, fold s < 2 ^ 16) ∧
  fold 0 = 0 ∧ (∀ s : Nat, 0 < s → fold s = (s - 1) % 0xFFFF + 1) ∧
  (∀ s : Nat, fold s = 0 ↔ s = 0) ∧ (∀ s : Nat, fold s = 0xFFFF ↔ 0 < s ∧ 0xFFFF ∣ s)

/-- R74: the words of a byte string. -/
def Obligations.WordsPadAnOddLastByte : Prop :=
  ∀ b : Bytes, (words b).length = (b.length + 1) / 2 ∧
    ∀ k : Nat, (∀ x y, b[2 * k]? = some x → b[2 * k + 1]? = some y →
        (words b)[k]? = some (BitVec.ofNat 16 (x.toNat <<< 8 ||| y.toNat))) ∧
      (∀ x, b[2 * k]? = some x → 2 * k + 1 = b.length → (words b)[k]? = some (BitVec.ofNat 16 (x.toNat <<< 8)))

/-- R75: the sum over the naturals, folded once, and that adding with end-around carry after each word gives the same. -/
def Obligations.Sum16FoldsTheUnlimitedSum : Prop :=
  ∀ (b : Bytes) (c : BitVec 32),
    (sum16 b c).toNat = fold (c.toNat + ((words b).map BitVec.toNat).sum) ∧
    (sum16 b c).toNat = (words b).foldl (fun acc w => fold (acc + w.toNat)) (fold c.toNat)

/-- R76, R77, R87: the complement, and that a checksum of 0 is a sum of 0xFFFF. -/
def Obligations.ChecksumIsTheComplementOfTheSum : Prop :=
  ∀ (b : Bytes) (c : BitVec 32),
    (checksum b c).toNat = 0xFFFF - (sum16 b c).toNat ∧ (checksum b c = 0#16 ↔ sum16 b c = 0xFFFF#16) ∧
    (csumOk b c = true ↔ sum16 b c = 0xFFFF#16)

/-- R84. -/
def Obligations.FillAlwaysValidates : Prop :=
  ∀ (e : Bytes) (o : Nat) (c : BitVec 32), o % 2 = 0 → o + 2 ≤ e.length → csumOk (fill e o c) c = true

/-- R85: which field values validate, and which one `fill` writes. -/
def Obligations.OnlyNegativeZeroHasTwoFieldValues : Prop :=
  ∀ (e : Bytes) (o : Nat) (c : BitVec 32), o % 2 = 0 → o + 2 ≤ e.length →
    (sum16 (memWrite16 e o 0#16) c = 0xFFFF#16 →
      (∀ k : BitVec 16, csumOk (memWrite16 e o k) c = true ↔ k = 0#16 ∨ k = 0xFFFF#16) ∧
      fill e o c = memWrite16 e o 0#16) ∧
    (sum16 (memWrite16 e o 0#16) c ≠ 0xFFFF#16 →
      (∀ k : BitVec 16, csumOk (memWrite16 e o k) c = true ↔ k = checksum (memWrite16 e o 0#16) c) ∧
      fill e o c = memWrite16 e o (checksum (memWrite16 e o 0#16) c))

/-- R86, and its use by IPV4_DECODE and ICMP_DECODE: a single flipped bit in the covered bytes is reported. -/
def Obligations.SingleBitFlipsAreDetected : Prop :=
  (∀ (b : Bytes) (c : BitVec 32) (i j : Nat), i < b.length → j < 8 → csumOk b c = true → csumOk (flipBit b i j) c = false) ∧
  (∀ (b : Bytes) (i j : Nat) (s t : State) (h : IPv4Header) (sup : Bool) (k : Kind), i < 20 → j < 8 →
    exec (.ipv4Decode b) s = .next { s with
      command := none
      response := some { status := .ok, result := some (.ipv4 h), supported := some sup, kind := some k } } →
    exec (.ipv4Decode (flipBit b i j)) t = .next { t with command := none, response := some { status := .invalidChecksum } }) ∧
  (∀ (b : Bytes) (i j : Nat) (s t : State) (h : Icmpv4Header), i < b.length → j < 8 →
    exec (.icmpDecode b) s = .next { s with command := none, response := some { status := .ok, result := some (.icmp h) } } →
    exec (.icmpDecode (flipBit b i j)) t = .next { t with command := none, response := some { status := .invalidChecksum } })

/-- R80. -/
def Obligations.CsumSum16ReturnsTheFoldedSum : Prop :=
  (∀ p : OperandPorts, decode ⟨0x01#8, p⟩ = .ok (.csumSum16 p.b p.carry)) ∧
  ∀ (b : Bytes) (carry : BitVec 32) (s : State),
    (Config.bufLen < b.length → exec (.csumSum16 b carry) s = .refused .oversize) ∧
    (b.length ≤ Config.bufLen → exec (.csumSum16 b carry) s = .next { s with
      command := none
      response := some { status := .ok, result := some (.value32 (BitVec.ofNat 32 (sum16 b carry).toNat)) } })

/-- R81. -/
def Obligations.CsumChecksumReturnsTheComplement : Prop :=
  (∀ p : OperandPorts, decode ⟨0x02#8, p⟩ = .ok (.csumChecksum p.b p.carry)) ∧
  (∀ (b : Bytes) (carry : BitVec 32) (s : State),
    (Config.bufLen < b.length → exec (.csumChecksum b carry) s = .refused .oversize) ∧
    (b.length ≤ Config.bufLen → exec (.csumChecksum b carry) s = .next { s with
      command := none
      response := some { status := .ok, result := some (.value16 (0xFFFF#16 - sum16 b carry)) } })) ∧
  (∀ (b : Bytes) (carry : BitVec 32), checksum b carry = 0xFFFF#16 ↔ carry = 0#32 ∧ ∀ x ∈ b, x = 0#8)

/-- R82. -/
def Obligations.CsumVerifySetsTheValidFlag : Prop :=
  (∀ p : OperandPorts, decode ⟨0x03#8, p⟩ = .ok (.csumVerify p.b p.carry)) ∧
  ∀ (b : Bytes) (carry : BitVec 32) (s : State),
    (Config.bufLen < b.length → exec (.csumVerify b carry) s = .refused .oversize) ∧
    (b.length ≤ Config.bufLen → exec (.csumVerify b carry) s = .next { s with
      command := none
      response := some { status := .ok, valid := some (decide (sum16 b carry = 0xFFFF#16)) } })

/-- R83, R78: the pseudo-header sum, and that src and dst may be swapped. -/
def Obligations.CsumPseudoSumsThePseudoHeader : Prop :=
  (∀ p : OperandPorts, decode ⟨0x04#8, p⟩ = .ok (.csumPseudo p.src p.dst p.seglen)) ∧
  (∀ (src dst : Ip) (n : BitVec 16) (s : State), exec (.csumPseudo src dst n) s = .next { s with
    command := none
    response := some { status := .ok, result := some (.value16 (BitVec.ofNat 16 (fold (src.toNat / 2 ^ 16
      + src.toNat % 2 ^ 16 + dst.toNat / 2 ^ 16 + dst.toNat % 2 ^ 16 + 6 + n.toNat)))) } }) ∧
  (∀ (src dst : Ip) (n : BitVec 16) (s : State), exec (.csumPseudo src dst n) s = exec (.csumPseudo dst src n) s) ∧
  (∀ (src dst : Ip) (n : BitVec 16) (b : Bytes),
    sum16 b (BitVec.ofNat 32 (pseudo src dst n).toNat) = sum16 b (BitVec.ofNat 32 (src.toNat / 2 ^ 16
      + src.toNat % 2 ^ 16 + dst.toNat / 2 ^ 16 + dst.toNat % 2 ^ 16 + 6 + n.toNat)))

/-! ### The link-layer codecs -/

/-- R88. -/
def Obligations.EthDecodeSplitsTheFrame : Prop :=
  (∀ p : OperandPorts, decode ⟨0x10#8, p⟩ = .ok (.ethDecode p.b)) ∧
  (∀ (b : Bytes) (s : State),
    (Config.bufLen < b.length → exec (.ethDecode b) s = .refused .oversize) ∧
    (b.length < 14 → exec (.ethDecode b) s = .next { s with
      command := none, response := some { status := .truncatedInput } })) ∧
  (∀ (b0 b1 b2 b3 b4 b5 b6 b7 b8 b9 b10 b11 b12 b13 : Byte) (payload : Bytes) (s : State),
    14 + payload.length ≤ Config.bufLen →
    exec (.ethDecode ([b0, b1, b2, b3, b4, b5, b6, b7, b8, b9, b10, b11, b12, b13] ++ payload)) s = .next { s with
      command := none
      response := some {
        status := .ok
        result := some (.ethernet {
          dstMac := b0 ++ b1 ++ b2 ++ b3 ++ b4 ++ b5
          srcMac := b6 ++ b7 ++ b8 ++ b9 ++ b10 ++ b11
          ethertype := b12 ++ b13
          payload := payload })
        kind := some (if b12 ++ b13 = 0x0806#16 then .arp else if b12 ++ b13 = 0x0800#16 then .ipv4 else .other) } })

/-- R89. -/
def Obligations.EthEncodeJoinsTheFields : Prop :=
  (∀ p : OperandPorts, decode ⟨0x11#8, p⟩ = .ok (.ethEncode p.f)) ∧
  ∀ (f : EthernetFrame) (s : State),
    (Config.bufLen < 14 + f.payload.length → exec (.ethEncode f) s = .refused .oversize) ∧
    (14 + f.payload.length ≤ Config.bufLen → exec (.ethEncode f) s = .next { s with
      command := none
      response := some { status := .ok, result := some (.bytes (u48 f.dstMac ++ u48 f.srcMac ++ u16 f.ethertype ++ f.payload)) } })

/-- R90. -/
def Obligations.EthernetRoundTrip : Prop :=
  (∀ (f : EthernetFrame) (s : State), 14 + f.payload.length ≤ Config.bufLen → ∃ (b : Bytes) (k : Kind),
    exec (.ethEncode f) s = .next { s with command := none, response := some { status := .ok, result := some (.bytes b) } } ∧
    ∀ t : State, exec (.ethDecode b) t = .next { t with
      command := none, response := some { status := .ok, result := some (.ethernet f), kind := some k } }) ∧
  (∀ (b : Bytes) (s : State), 14 ≤ b.length → b.length ≤ Config.bufLen → ∃ (f : EthernetFrame) (k : Kind),
    exec (.ethDecode b) s = .next { s with
      command := none, response := some { status := .ok, result := some (.ethernet f), kind := some k } } ∧
    ∀ t : State, exec (.ethEncode f) t = .next { t with
      command := none, response := some { status := .ok, result := some (.bytes b) } })

/-- R92, R91. -/
def Obligations.ArpDecodeSplitsTheMessage : Prop :=
  (∀ p : OperandPorts, decode ⟨0x12#8, p⟩ = .ok (.arpDecode p.b)) ∧
  (∀ (b : Bytes) (s : State),
    (Config.bufLen < b.length → exec (.arpDecode b) s = .refused .oversize) ∧
    (b.length < 8 → exec (.arpDecode b) s = .next { s with
      command := none, response := some { status := .truncatedInput } })) ∧
  (∀ (b0 b1 b2 b3 b4 b5 b6 b7 : Byte) (payload : Bytes) (s : State), 8 + payload.length ≤ Config.bufLen →
    exec (.arpDecode ([b0, b1, b2, b3, b4, b5, b6, b7] ++ payload)) s = .next { s with
      command := none
      response := some {
        status := .ok
        result := some (.arp {
          hwType := b0 ++ b1, protoType := b2 ++ b3, hwSize := b4, protoSize := b5, opcode := b6 ++ b7, payload := payload })
        supported := some (decide (b0 ++ b1 = 1#16 ∧ b2 ++ b3 = 0x0800#16)) } })

/-- R93. -/
def Obligations.ArpEncodeJoinsTheFields : Prop :=
  (∀ p : OperandPorts, decode ⟨0x13#8, p⟩ = .ok (.arpEncode p.m)) ∧
  ∀ (m : ArpMessage) (s : State),
    (Config.bufLen < 8 + m.payload.length → exec (.arpEncode m) s = .refused .oversize) ∧
    (8 + m.payload.length ≤ Config.bufLen → exec (.arpEncode m) s = .next { s with
      command := none
      response := some { status := .ok, result := some (.bytes (u16 m.hwType ++ u16 m.protoType ++ [m.hwSize, m.protoSize]
        ++ u16 m.opcode ++ m.payload)) } })

/-- R94. -/
def Obligations.ArpMessageRoundTrip : Prop :=
  (∀ (m : ArpMessage) (s : State), 8 + m.payload.length ≤ Config.bufLen → ∃ b : Bytes,
    exec (.arpEncode m) s = .next { s with command := none, response := some { status := .ok, result := some (.bytes b) } } ∧
    ∀ t : State, exec (.arpDecode b) t = .next { t with
      command := none
      response := some { status := .ok, result := some (.arp m), supported := some (arpSupported m) } }) ∧
  (∀ (b : Bytes) (s : State), 8 ≤ b.length → b.length ≤ Config.bufLen → ∃ m : ArpMessage,
    exec (.arpDecode b) s = .next { s with
      command := none
      response := some { status := .ok, result := some (.arp m), supported := some (arpSupported m) } } ∧
    ∀ t : State, exec (.arpEncode m) t = .next { t with
      command := none, response := some { status := .ok, result := some (.bytes b) } })

/-- R95. -/
def Obligations.Arpv4DecodeReadsTwentyBytes : Prop :=
  (∀ p : OperandPorts, decode ⟨0x14#8, p⟩ = .ok (.arpv4Decode p.b)) ∧
  (∀ (b : Bytes) (s : State),
    (Config.bufLen < b.length → exec (.arpv4Decode b) s = .refused .oversize) ∧
    (b.length < 20 → exec (.arpv4Decode b) s = .next { s with
      command := none, response := some { status := .truncatedInput } })) ∧
  (∀ (b0 b1 b2 b3 b4 b5 b6 b7 b8 b9 b10 b11 b12 b13 b14 b15 b16 b17 b18 b19 : Byte) (rest : Bytes) (s : State),
    20 + rest.length ≤ Config.bufLen →
    exec (.arpv4Decode ([b0, b1, b2, b3, b4, b5, b6, b7, b8, b9, b10, b11, b12, b13, b14, b15, b16, b17, b18, b19] ++ rest)) s
      = .next { s with
        command := none
        response := some {
          status := .ok
          result := some (.arpv4 {
            senderMac := b0 ++ b1 ++ b2 ++ b3 ++ b4 ++ b5
            senderIp := b6 ++ b7 ++ b8 ++ b9
            targetMac := b10 ++ b11 ++ b12 ++ b13 ++ b14 ++ b15
            targetIp := b16 ++ b17 ++ b18 ++ b19 }) } })

/-- R96. -/
def Obligations.Arpv4EncodeWritesTwentyBytes : Prop :=
  (∀ p : OperandPorts, decode ⟨0x15#8, p⟩ = .ok (.arpv4Encode p.a)) ∧
  ∀ (a : ArpIPv4Body) (s : State), ∃ b : Bytes,
    b = u48 a.senderMac ++ u32 a.senderIp ++ u48 a.targetMac ++ u32 a.targetIp ∧ b.length = 20 ∧
    exec (.arpv4Encode a) s = .next { s with command := none, response := some { status := .ok, result := some (.bytes b) } }

/-- R97. -/
def Obligations.Arpv4BodyRoundTrip : Prop :=
  (∀ (a : ArpIPv4Body) (s : State), ∃ b : Bytes,
    exec (.arpv4Encode a) s = .next { s with command := none, response := some { status := .ok, result := some (.bytes b) } } ∧
    ∀ t : State, exec (.arpv4Decode b) t = .next { t with
      command := none, response := some { status := .ok, result := some (.arpv4 a) } }) ∧
  (∀ (b : Bytes) (s : State), 20 ≤ b.length → b.length ≤ Config.bufLen → ∃ a : ArpIPv4Body,
    exec (.arpv4Decode b) s = .next { s with command := none, response := some { status := .ok, result := some (.arpv4 a) } } ∧
    ∀ t : State, exec (.arpv4Encode a) t = .next { t with
      command := none, response := some { status := .ok, result := some (.bytes (b.take 20)) } })

/-! ### The IPv4 and ICMPv4 codecs -/

/-- R100, R99: the checks in order, and the record of an accepted packet. -/
def Obligations.Ipv4DecodeChecksAndSplits : Prop :=
  (∀ p : OperandPorts, decode ⟨0x20#8, p⟩ = .ok (.ipv4Decode p.b)) ∧
  (∀ (b : Bytes) (s : State),
    (Config.bufLen < b.length → exec (.ipv4Decode b) s = .refused .oversize) ∧
    (b.length < 20 → exec (.ipv4Decode b) s = .next { s with
      command := none, response := some { status := .truncatedInput } })) ∧
  (∀ (b0 b1 b2 b3 b4 b5 b6 b7 b8 b9 b10 b11 b12 b13 b14 b15 b16 b17 b18 b19 : Byte) (rest : Bytes) (s : State),
    20 + rest.length ≤ Config.bufLen →
    exec (.ipv4Decode ([b0, b1, b2, b3, b4, b5, b6, b7, b8, b9, b10, b11, b12, b13, b14, b15, b16, b17, b18, b19] ++ rest)) s
      = .next { s with
        command := none
        response := some (
          if sum16 [b0, b1, b2, b3, b4, b5, b6, b7, b8, b9, b10, b11, b12, b13, b14, b15, b16, b17, b18, b19] 0#32 ≠ 0xFFFF#16
          then { status := .invalidChecksum }
          else if 20 + rest.length < max ((b0.extractLsb' 0 4).toNat * 4) 20 then { status := .truncatedInput }
          else {
            status := .ok
            result := some (.ipv4 {
              version := b0.extractLsb' 4 4, ihl := b0.extractLsb' 0 4, tos := b1, totalLen := b2 ++ b3, id := b4 ++ b5
              flags := (b6 ++ b7).extractLsb' 13 3, fragmentOffset := (b6 ++ b7).extractLsb' 0 13, ttl := b8, protocol := b9
              checksum := b10 ++ b11, srcAddr := b12 ++ b13 ++ b14 ++ b15, dstAddr := b16 ++ b17 ++ b18 ++ b19
              options := rest.take ((b0.extractLsb' 0 4).toNat * 4 - 20)
              payload := rest.drop ((b0.extractLsb' 0 4).toNat * 4 - 20) })
            supported := some (decide (b0.extractLsb' 4 4 = 4#4 ∧ 5 ≤ (b0.extractLsb' 0 4).toNat ∧ b8 ≠ 0#8))
            kind := some (if b9 = 1#8 then .icmp else if b9 = 6#8 then .tcp else .other) }) })

/-- R101, R102. -/
def Obligations.Ipv4EncodeIsVerbatim : Prop :=
  (∀ p : OperandPorts, decode ⟨0x21#8, p⟩ = .ok (.ipv4Encode p.ipv4)) ∧
  (∀ h : IPv4Header, hdr20 h = [h.version ++ h.ihl, h.tos] ++ u16 h.totalLen ++ u16 h.id
    ++ u16 (h.flags ++ h.fragmentOffset) ++ [h.ttl, h.protocol] ++ u16 h.checksum ++ u32 h.srcAddr ++ u32 h.dstAddr) ∧
  ∀ (h : IPv4Header) (s : State),
    (Config.bufLen < 20 + h.options.length + h.payload.length → exec (.ipv4Encode h) s = .refused .oversize) ∧
    (20 + h.options.length + h.payload.length ≤ Config.bufLen → exec (.ipv4Encode h) s = .next { s with
      command := none
      response := some { status := .ok, result := some (.bytes (hdr20 h ++ h.options ++ h.payload)) } })

/-- R103: IPV4_ENCODE_FILL is IPV4_ENCODE of the record with the checksum of the image whose field is zero. -/
def Obligations.Ipv4EncodeFillWritesAFreshChecksum : Prop :=
  (∀ p : OperandPorts, decode ⟨0x22#8, p⟩ = .ok (.ipv4EncodeFill p.ipv4)) ∧
  ∀ (h : IPv4Header) (s : State),
    (Config.bufLen < 20 + h.options.length + h.payload.length → exec (.ipv4EncodeFill h) s = .refused .oversize) ∧
    (20 + h.options.length + h.payload.length ≤ Config.bufLen → exec (.ipv4EncodeFill h) s = .next { s with
      command := none
      response := some { status := .ok, result := some (.bytes
        (hdr20 { h with checksum := checksum (hdr20 { h with checksum := 0#16 }) 0#32 } ++ h.options ++ h.payload)) } })

/-- R104, its four clauses. -/
def Obligations.Ipv4RoundTrip : Prop :=
  (∀ (h : IPv4Header) (s : State), ipv4Consistent h → sum16 (hdr20 h) 0#32 = 0xFFFF#16 →
    20 + h.options.length + h.payload.length ≤ Config.bufLen → ∃ b : Bytes,
    exec (.ipv4Encode h) s = .next { s with command := none, response := some { status := .ok, result := some (.bytes b) } } ∧
    ∀ t : State, exec (.ipv4Decode b) t = .next { t with
      command := none
      response := some { status := .ok, result := some (.ipv4 h), supported := some (ipv4Supported h), kind := some (ipv4Kind h.protocol) } }) ∧
  (∀ (h : IPv4Header) (s : State), ipv4Consistent h → 20 + h.options.length + h.payload.length ≤ Config.bufLen → ∃ b : Bytes,
    exec (.ipv4EncodeFill h) s = .next { s with command := none, response := some { status := .ok, result := some (.bytes b) } } ∧
    ∀ t : State, exec (.ipv4Decode b) t = .next { t with
      command := none
      response := some {
        status := .ok
        result := some (.ipv4 { h with checksum := checksum (hdr20 { h with checksum := 0#16 }) 0#32 })
        supported := some (ipv4Supported h), kind := some (ipv4Kind h.protocol) } }) ∧
  (∀ (b : Bytes) (h : IPv4Header) (sup : Bool) (k : Kind) (s t : State),
    exec (.ipv4Decode b) s = .next { s with
      command := none
      response := some { status := .ok, result := some (.ipv4 h), supported := some sup, kind := some k } } →
    exec (.ipv4Encode h) t = .next { t with command := none, response := some { status := .ok, result := some (.bytes b) } } ∧
    (¬ (sum16 (memWrite16 (b.take 20) 10 0#16) 0#32 = 0xFFFF#16 ∧ h.checksum = 0xFFFF#16) →
      exec (.ipv4EncodeFill h) t = .next { t with
        command := none, response := some { status := .ok, result := some (.bytes b) } }))

/-- R105. -/
def Obligations.IcmpDecodeChecksTheWholeMessage : Prop :=
  (∀ p : OperandPorts, decode ⟨0x24#8, p⟩ = .ok (.icmpDecode p.b)) ∧
  (∀ (b : Bytes) (s : State),
    (Config.bufLen < b.length → exec (.icmpDecode b) s = .refused .oversize) ∧
    (b.length < 4 → exec (.icmpDecode b) s = .next { s with
      command := none, response := some { status := .truncatedInput } })) ∧
  (∀ (b0 b1 b2 b3 : Byte) (data : Bytes) (s : State), 4 + data.length ≤ Config.bufLen →
    exec (.icmpDecode ([b0, b1, b2, b3] ++ data)) s = .next { s with
      command := none
      response := some (
        if sum16 ([b0, b1, b2, b3] ++ data) 0#32 ≠ 0xFFFF#16 then { status := .invalidChecksum }
        else { status := .ok, result := some (.icmp { type := b0, code := b1, checksum := b2 ++ b3, data := data }) }) })

/-- R106. -/
def Obligations.IcmpEncodeIsVerbatim : Prop :=
  (∀ p : OperandPorts, decode ⟨0x25#8, p⟩ = .ok (.icmpEncode p.icmp)) ∧
  ∀ (h : Icmpv4Header) (s : State),
    (Config.bufLen < 4 + h.data.length → exec (.icmpEncode h) s = .refused .oversize) ∧
    (4 + h.data.length ≤ Config.bufLen → exec (.icmpEncode h) s = .next { s with
      command := none
      response := some { status := .ok, result := some (.bytes ([h.type, h.code] ++ u16 h.checksum ++ h.data)) } })

/-- R107. -/
def Obligations.IcmpEncodeFillWritesAFreshChecksum : Prop :=
  (∀ p : OperandPorts, decode ⟨0x26#8, p⟩ = .ok (.icmpEncodeFill p.icmp)) ∧
  ∀ (h : Icmpv4Header) (s : State),
    (Config.bufLen < 4 + h.data.length → exec (.icmpEncodeFill h) s = .refused .oversize) ∧
    (4 + h.data.length ≤ Config.bufLen → exec (.icmpEncodeFill h) s = .next { s with
      command := none
      response := some { status := .ok, result := some (.bytes
        ([h.type, h.code] ++ u16 (checksum ([h.type, h.code, 0#8, 0#8] ++ h.data) 0#32) ++ h.data)) } })

/-- R108, its four clauses. -/
def Obligations.IcmpRoundTrip : Prop :=
  (∀ (h : Icmpv4Header) (s : State), 4 + h.data.length ≤ Config.bufLen →
    sum16 ([h.type, h.code] ++ u16 h.checksum ++ h.data) 0#32 = 0xFFFF#16 → ∃ b : Bytes,
    exec (.icmpEncode h) s = .next { s with command := none, response := some { status := .ok, result := some (.bytes b) } } ∧
    ∀ t : State, exec (.icmpDecode b) t = .next { t with
      command := none, response := some { status := .ok, result := some (.icmp h) } }) ∧
  (∀ (h : Icmpv4Header) (s : State), 4 + h.data.length ≤ Config.bufLen → ∃ b : Bytes,
    exec (.icmpEncodeFill h) s = .next { s with command := none, response := some { status := .ok, result := some (.bytes b) } } ∧
    ∀ t : State, exec (.icmpDecode b) t = .next { t with
      command := none
      response := some { status := .ok, result := some (.icmp { h with
        checksum := checksum ([h.type, h.code, 0#8, 0#8] ++ h.data) 0#32 }) } }) ∧
  (∀ (b : Bytes) (h : Icmpv4Header) (s t : State),
    exec (.icmpDecode b) s = .next { s with command := none, response := some { status := .ok, result := some (.icmp h) } } →
    exec (.icmpEncode h) t = .next { t with command := none, response := some { status := .ok, result := some (.bytes b) } } ∧
    (¬ (sum16 (memWrite16 b 2 0#16) 0#32 = 0xFFFF#16 ∧ h.checksum = 0xFFFF#16) →
      exec (.icmpEncodeFill h) t = .next { t with
        command := none, response := some { status := .ok, result := some (.bytes b) } }))

/-! ### The TCP codec -/

/-- R112, R111: the checks, and the record; the checksum is not examined. -/
def Obligations.TcpDecodeSplitsUnchecked : Prop :=
  (∀ p : OperandPorts, decode ⟨0x30#8, p⟩ = .ok (.tcpDecode p.b)) ∧
  (∀ (b : Bytes) (s : State),
    (Config.bufLen < b.length → exec (.tcpDecode b) s = .refused .oversize) ∧
    (b.length < 20 → exec (.tcpDecode b) s = .next { s with
      command := none, response := some { status := .truncatedInput } })) ∧
  (∀ (b0 b1 b2 b3 b4 b5 b6 b7 b8 b9 b10 b11 b12 b13 b14 b15 b16 b17 b18 b19 : Byte) (rest : Bytes) (s : State),
    20 + rest.length ≤ Config.bufLen →
    exec (.tcpDecode ([b0, b1, b2, b3, b4, b5, b6, b7, b8, b9, b10, b11, b12, b13, b14, b15, b16, b17, b18, b19] ++ rest)) s
      = .next { s with
        command := none
        response := some (
          if 20 + rest.length < max ((b12.extractLsb' 4 4).toNat * 4) 20 then { status := .truncatedInput }
          else {
            status := .ok
            result := some (.tcp {
              srcPort := b0 ++ b1, dstPort := b2 ++ b3, seq := b4 ++ b5 ++ b6 ++ b7, ack := b8 ++ b9 ++ b10 ++ b11
              dataOffset := b12.extractLsb' 4 4, flags := b13, window := b14 ++ b15, checksum := b16 ++ b17
              urgentPtr := b18 ++ b19
              options := rest.take ((b12.extractLsb' 4 4).toNat * 4 - 20)
              payload := rest.drop ((b12.extractLsb' 4 4).toNat * 4 - 20) }) }) })

/-- R113: TCP_DECODE_CHECK refuses an over-long segment, reports a checksum failure, and is TCP_DECODE otherwise. -/
def Obligations.TcpDecodeCheckValidatesFirst : Prop :=
  (∀ p : OperandPorts, decode ⟨0x31#8, p⟩ = .ok (.tcpDecodeCheck p.b p.src p.dst)) ∧
  ∀ (b : Bytes) (src dst : Ip) (s : State),
    (Config.bufLen < b.length → exec (.tcpDecodeCheck b src dst) s = .refused .oversize) ∧
    (0xFFFF < b.length → exec (.tcpDecodeCheck b src dst) s
      = .refused (if Config.bufLen < b.length then .oversize else .segmentTooLong)) ∧
    (b.length < 20 → exec (.tcpDecodeCheck b src dst) s = .next { s with
      command := none, response := some { status := .truncatedInput } }) ∧
    (20 ≤ b.length → b.length ≤ Config.bufLen → b.length ≤ 0xFFFF →
      (sum16 b (BitVec.ofNat 32 (pseudo src dst (BitVec.ofNat 16 b.length)).toNat) ≠ 0xFFFF#16 →
        exec (.tcpDecodeCheck b src dst) s = .next { s with
          command := none, response := some { status := .invalidChecksum } }) ∧
      (sum16 b (BitVec.ofNat 32 (pseudo src dst (BitVec.ofNat 16 b.length)).toNat) = 0xFFFF#16 →
        (b.length < (b.getD 12 0#8).toNat / 16 * 4 → exec (.tcpDecodeCheck b src dst) s = .next { s with
          command := none, response := some { status := .truncatedInput } }) ∧
        ((b.getD 12 0#8).toNat / 16 * 4 ≤ b.length → ∃ h : TcpHeader,
          exec (.tcpDecode b) s = .next { s with
            command := none, response := some { status := .ok, result := some (.tcp h) } } ∧
          exec (.tcpDecodeCheck b src dst) s = .next { s with
            command := none, response := some { status := .ok, result := some (.tcp h) } })))

/-- R113 with R83 and R86: the addresses may be swapped, and one flipped bit in the segment or in an address is reported. -/
def Obligations.TcpCheckDetectsSingleBitFlips : Prop :=
  (∀ (b : Bytes) (src dst : Ip) (s : State), exec (.tcpDecodeCheck b src dst) s = exec (.tcpDecodeCheck b dst src) s) ∧
  (∀ (b : Bytes) (src dst : Ip) (h : TcpHeader) (s t : State),
    exec (.tcpDecodeCheck b src dst) s = .next { s with
      command := none, response := some { status := .ok, result := some (.tcp h) } } →
    (∀ i j : Nat, i < b.length → j < 8 → exec (.tcpDecodeCheck (flipBit b i j) src dst) t = .next { t with
      command := none, response := some { status := .invalidChecksum } }) ∧
    (∀ j : Nat, j < 32 → exec (.tcpDecodeCheck b (src ^^^ BitVec.twoPow 32 j) dst) t = .next { t with
      command := none, response := some { status := .invalidChecksum } }) ∧
    (∀ j : Nat, j < 32 → exec (.tcpDecodeCheck b src (dst ^^^ BitVec.twoPow 32 j)) t = .next { t with
      command := none, response := some { status := .invalidChecksum } }))

/-- R114, R115. -/
def Obligations.TcpEncodeIsVerbatim : Prop :=
  (∀ p : OperandPorts, decode ⟨0x32#8, p⟩ = .ok (.tcpEncode p.tcp)) ∧
  (∀ h : TcpHeader, tcp20 h = u16 h.srcPort ++ u16 h.dstPort ++ u32 h.seq ++ u32 h.ack ++ [h.dataOffset ++ 0#4, h.flags]
    ++ u16 h.window ++ u16 h.checksum ++ u16 h.urgentPtr) ∧
  ∀ (h : TcpHeader) (s : State),
    (Config.bufLen < 20 + h.options.length + h.payload.length → exec (.tcpEncode h) s = .refused .oversize) ∧
    (20 + h.options.length + h.payload.length ≤ Config.bufLen → exec (.tcpEncode h) s = .next { s with
      command := none
      response := some { status := .ok, result := some (.bytes (tcp20 h ++ h.options ++ h.payload)) } })

/-- R116: TCP_ENCODE_FILL is TCP_ENCODE of the record with the checksum of the segment whose field is zero. -/
def Obligations.TcpEncodeFillWritesAFreshChecksum : Prop :=
  (∀ p : OperandPorts, decode ⟨0x33#8, p⟩ = .ok (.tcpEncodeFill p.tcp p.src p.dst)) ∧
  ∀ (h : TcpHeader) (src dst : Ip) (s : State) (n : Nat), n = 20 + h.options.length + h.payload.length →
    (Config.bufLen < n → exec (.tcpEncodeFill h src dst) s = .refused .oversize) ∧
    (0xFFFF < n → exec (.tcpEncodeFill h src dst) s = .refused (if Config.bufLen < n then .oversize else .segmentTooLong)) ∧
    (n ≤ Config.bufLen → n ≤ 0xFFFF → exec (.tcpEncodeFill h src dst) s = .next { s with
      command := none
      response := some { status := .ok, result := some (.bytes (tcp20 { h with
        checksum := checksum (tcp20 { h with checksum := 0#16 } ++ h.options ++ h.payload)
          (BitVec.ofNat 32 (pseudo src dst (BitVec.ofNat 16 n)).toNat) } ++ h.options ++ h.payload)) } })

/-- R117, its three clauses. -/
def Obligations.TcpRoundTrip : Prop :=
  (∀ (h : TcpHeader) (s : State), tcpConsistent h → 20 + h.options.length + h.payload.length ≤ Config.bufLen → ∃ b : Bytes,
    exec (.tcpEncode h) s = .next { s with command := none, response := some { status := .ok, result := some (.bytes b) } } ∧
    ∀ t : State, exec (.tcpDecode b) t = .next { t with
      command := none, response := some { status := .ok, result := some (.tcp h) } }) ∧
  (∀ (h : TcpHeader) (src dst : Ip) (s : State), tcpConsistent h → 20 + h.options.length + h.payload.length ≤ Config.bufLen →
    20 + h.options.length + h.payload.length ≤ 0xFFFF → ∃ (b : Bytes) (k : BitVec 16),
    exec (.tcpEncodeFill h src dst) s = .next { s with
      command := none, response := some { status := .ok, result := some (.bytes b) } } ∧
    k = checksum (tcp20 { h with checksum := 0#16 } ++ h.options ++ h.payload)
      (BitVec.ofNat 32 (pseudo src dst (BitVec.ofNat 16 (20 + h.options.length + h.payload.length))).toNat) ∧
    ∀ t : State, exec (.tcpDecodeCheck b src dst) t = .next { t with
      command := none, response := some { status := .ok, result := some (.tcp { h with checksum := k }) } }) ∧
  (∀ (b : Bytes) (h : TcpHeader) (s t : State),
    exec (.tcpDecode b) s = .next { s with command := none, response := some { status := .ok, result := some (.tcp h) } } →
    exec (.tcpEncode h) t = .next { t with
      command := none
      response := some { status := .ok, result := some (.bytes (b.modify 12 fun x => x &&& 0xF0#8)) } } ∧
    ((b.getD 12 0#8).extractLsb' 0 4 = 0#4 → exec (.tcpEncode h) t = .next { t with
      command := none, response := some { status := .ok, result := some (.bytes b) } }))

/-! ### The ARP table -/

/-- R118: for every capacity of at least 1 and every draw, a put writes its key, changes no other entry but the victim's, and
draws a victim exactly when the key is absent and the table is full; the victim is a draw over all present keys, so each present
key is the victim of some draw. -/
def Obligations.PutWritesItsKeyAndEvictsAtMostOne : Prop :=
  ∀ (cap : Option Nat) (draw : Nat) (t : ArpTable) (k : ArpKey) (m : Mac), ArpTable.wf t → (∀ n ∈ cap, 1 ≤ n) →
    ArpTable.wf (arptPut cap draw t k m) ∧ arptGet (arptPut cap draw t k m) k = some m ∧
    ((arptGet t k ≠ none ∨ ∀ n ∈ cap, t.length < n) →
      ∀ k' : ArpKey, k' ≠ k → arptGet (arptPut cap draw t k m) k' = arptGet t k') ∧
    ((arptGet t k = none ∧ ∃ n ∈ cap, n ≤ t.length) → ∃ v : ArpKey, arptGet t v ≠ none ∧ v ≠ k ∧
      arptGet (arptPut cap draw t k m) v = none ∧
      ∀ k' : ArpKey, k' ≠ k → k' ≠ v → arptGet (arptPut cap draw t k m) k' = arptGet t k') ∧
    ((arptGet t k = none ∧ ∃ n ∈ cap, n ≤ t.length) → ∀ v : ArpKey, arptGet t v ≠ none →
      ∃ d : Nat, arptGet (arptPut cap d t k m) v = none ∧ (arptPut cap d t k m).length = t.length)

/-- R119. -/
def Obligations.ArpLookupReadsIpv4Entries : Prop :=
  (∀ p : OperandPorts, decode ⟨0x40#8, p⟩ = .ok (.arpLookup p.ip)) ∧
  ∀ (ip : Ip) (s : State),
    (∀ m : Mac, arptGet s.arpt ⟨0x0800#16, ip⟩ = some m → exec (.arpLookup ip) s = .next { s with
      command := none, response := some { status := .ok, result := some (.mac m) } }) ∧
    (arptGet s.arpt ⟨0x0800#16, ip⟩ = none → exec (.arpLookup ip) s = .next { s with
      command := none, response := some { status := .unresolvedAddress } })

/-- R120. -/
def Obligations.ArpUpdateOverwritesOnlyOnAHit : Prop :=
  (∀ p : OperandPorts, decode ⟨0x41#8, p⟩ = .ok (.arpUpdate p.ptype p.ip p.mac)) ∧
  ∀ (ptype : BitVec 16) (ip : Ip) (mac : Mac) (s : State),
    (arptGet s.arpt ⟨ptype, ip⟩ = none → exec (.arpUpdate ptype ip mac) s = .next { s with
      command := none, response := some { status := .ok, matched := some false } }) ∧
    (arptGet s.arpt ⟨ptype, ip⟩ ≠ none → ∃ t : ArpTable,
      exec (.arpUpdate ptype ip mac) s = .next { s with
        command := none, response := some { status := .ok, matched := some true }, arpt := t } ∧
      arptGet t ⟨ptype, ip⟩ = some mac ∧ (∀ k : ArpKey, k ≠ ⟨ptype, ip⟩ → arptGet t k = arptGet s.arpt k) ∧
      (ArpTable.wf s.arpt → ArpTable.wf t ∧ t.length = s.arpt.length))

/-- R121, with the put of R118 at this instance's capacity, for some draw; nothing is said of the model's draw counter (log
entry 2). -/
def Obligations.ArpInsertPutsUnconditionally : Prop :=
  (∀ p : OperandPorts, decode ⟨0x42#8, p⟩ = .ok (.arpInsert p.ptype p.ip p.mac)) ∧
  ∀ (ptype : BitVec 16) (ip : Ip) (mac : Mac) (s : State), ∃ (draw draws : Nat) (t : ArpTable),
    t = arptPut Config.arpCapacity draw s.arpt ⟨ptype, ip⟩ mac ∧
    exec (.arpInsert ptype ip mac) s = .next { s with
      command := none, response := some { status := .ok }, arpt := t, draws := draws } ∧
    arptGet t ⟨ptype, ip⟩ = some mac

/-- R122, with the put of R118 at this instance's capacity, for some draw; and the same effect on ARPT as ARP_UPDATE followed, on a
miss, by ARP_INSERT. -/
def Obligations.ArpMergeReportsThePriorPresence : Prop :=
  (∀ p : OperandPorts, decode ⟨0x43#8, p⟩ = .ok (.arpMerge p.ptype p.ip p.mac)) ∧
  (∀ (ptype : BitVec 16) (ip : Ip) (mac : Mac) (s : State), ∃ (draw draws : Nat) (t : ArpTable),
    t = arptPut Config.arpCapacity draw s.arpt ⟨ptype, ip⟩ mac ∧
    exec (.arpMerge ptype ip mac) s = .next { s with
      command := none
      response := some { status := .ok, matched := some (arptGet s.arpt ⟨ptype, ip⟩).isSome }
      arpt := t
      draws := draws } ∧
    arptGet t ⟨ptype, ip⟩ = some mac) ∧
  ∀ (ptype : BitVec 16) (ip : Ip) (mac : Mac) (s : State), ∃ t u v : State,
    exec (.arpMerge ptype ip mac) s = .next t ∧ exec (.arpUpdate ptype ip mac) s = .next u ∧
    exec (.arpInsert ptype ip mac) u = .next v ∧
    (arptGet s.arpt ⟨ptype, ip⟩ ≠ none → t.arpt = u.arpt) ∧ (arptGet s.arpt ⟨ptype, ip⟩ = none → t.arpt = v.arpt)

/-- R124, R123: the checks in order, then the merge, for some draw, then the reply. -/
def Obligations.ArpProcessMergesAndReplies : Prop :=
  (∀ p : OperandPorts, decode ⟨0x44#8, p⟩ = .ok (.arpProcess p.b)) ∧
  (∀ (b : Bytes) (s : State),
    (Config.bufLen < b.length → exec (.arpProcess b) s = .refused .oversize) ∧
    (b.length < 14 → exec (.arpProcess b) s = .next { s with
      command := none, response := some { status := .truncatedInput } })) ∧
  (∀ (addresses rest : Bytes) (t : BitVec 16) (s : State), addresses.length = 12 → 14 + rest.length ≤ Config.bufLen →
    (t ≠ 0x0806#16 → exec (.arpProcess (addresses ++ u16 t ++ rest)) s = .next { s with
      command := none, response := some { status := .unhandledEthertype } }) ∧
    (t = 0x0806#16 → rest.length < 28 → exec (.arpProcess (addresses ++ u16 t ++ rest)) s = .next { s with
      command := none, response := some { status := .truncatedInput } })) ∧
  (∀ (addresses pad : Bytes) (m : ArpMessage) (a : ArpIPv4Body) (s : State), addresses.length = 12 →
    42 + pad.length ≤ Config.bufLen →
    m.payload = u48 a.senderMac ++ u32 a.senderIp ++ u48 a.targetMac ++ u32 a.targetIp ++ pad →
    ∃ draw draws : Nat, exec (.arpProcess (addresses ++ u16 0x0806#16 ++ (u16 m.hwType ++ u16 m.protoType
      ++ [m.hwSize, m.protoSize] ++ u16 m.opcode ++ m.payload))) s = .next { s with
        command := none
        arpt := arptPut Config.arpCapacity draw s.arpt ⟨m.protoType, a.senderIp⟩ a.senderMac
        draws := draws
        response := some (
          if m.hwType = 1#16 ∧ m.protoType = 0x0800#16 then {
            status := .ok
            result := some (.reply (
              if m.opcode = 1#16 ∧ ¬ (Config.arpTargetCheck = true ∧ a.targetIp ≠ s.hostIp) then
                some (u48 a.senderMac ++ u48 s.hostMac ++ u16 0x0806#16 ++ u16 m.hwType ++ u16 m.protoType
                  ++ [m.hwSize, m.protoSize] ++ u16 2#16 ++ u48 s.hostMac ++ u32 s.hostIp ++ u48 a.senderMac ++ u32 a.senderIp)
              else none))
            supported := some true
            matched := some (arptGet s.arpt ⟨m.protoType, a.senderIp⟩).isSome }
          else {
            status := .unsupportedLayer
            supported := some false
            matched := some (arptGet s.arpt ⟨m.protoType, a.senderIp⟩).isSome }) })

/-- R125: the merge property. -/
def Obligations.UpdateAfterInsertIsWhatLookupReads : Prop :=
  ∀ (p : BitVec 16) (ip : Ip) (m1 m2 : Mac) (s : State),
    (arptGet s.arpt ⟨p, ip⟩ = none → exec (.arpUpdate p ip m2) s = .next { s with
      command := none, response := some { status := .ok, matched := some false } }) ∧
    ∃ t u : State, exec (.arpInsert p ip m1) s = .next t ∧ exec (.arpUpdate p ip m2) t = .next u ∧
      u.response = some { status := .ok, matched := some true } ∧
      (p = 0x0800#16 → exec (.arpLookup ip) u = .next { u with
        command := none, response := some { status := .ok, result := some (.mac m2) } })

/-- R126: decoding the reply to a supported Request for this host with the block's own decoders. -/
def Obligations.ReplyDecodesToTheHostIdentity : Prop :=
  ∀ (addresses pad : Bytes) (hs ps : Byte) (a : ArpIPv4Body) (s : State), addresses.length = 12 →
    42 + pad.length ≤ Config.bufLen → a.targetIp = s.hostIp → ∃ (t : State) (hit : Bool) (out : Bytes) (f : EthernetFrame) (m : ArpMessage),
    exec (.arpProcess (addresses ++ u16 0x0806#16 ++ u16 1#16 ++ u16 0x0800#16 ++ [hs, ps] ++ u16 1#16
      ++ u48 a.senderMac ++ u32 a.senderIp ++ u48 a.targetMac ++ u32 a.targetIp ++ pad)) s = .next t ∧
    t.response = some { status := .ok, result := some (.reply (some out)), supported := some true, matched := some hit } ∧
    out.length = 42 ∧
    (∀ u : State, exec (.ethDecode out) u = .next { u with
      command := none, response := some { status := .ok, result := some (.ethernet f), kind := some .arp } }) ∧
    f.dstMac = a.senderMac ∧ f.srcMac = s.hostMac ∧ f.ethertype = 0x0806#16 ∧
    (∀ u : State, exec (.arpDecode f.payload) u = .next { u with
      command := none, response := some { status := .ok, result := some (.arp m), supported := some true } }) ∧
    m.opcode = 2#16 ∧
    (∀ u : State, exec (.arpv4Decode m.payload) u = .next { u with
      command := none
      response := some { status := .ok, result := some (.arpv4 {
        senderMac := s.hostMac, senderIp := s.hostIp, targetMac := a.senderMac, targetIp := a.senderIp }) } })

/-- R127: a command takes a key out of the table only where a bounded table is full and another key comes in; and it changes a
key's MAC only as a put of that key. -/
def Obligations.EntriesLeaveOnlyByEviction : Prop :=
  ∀ (i : Instr) (s t : State) (k : ArpKey) (m : Mac), exec i s = .next t → arptGet s.arpt k = some m →
    (arptGet t.arpt k ≠ none ∨
      ∃ (n : Nat) (k' : ArpKey), Config.arpCapacity = some n ∧ n ≤ s.arpt.length ∧ arptGet s.arpt k' = none ∧
        arptGet t.arpt k' ≠ none) ∧
    (ArpTable.wf s.arpt → ∀ m' : Mac, arptGet t.arpt k = some m' → m' ≠ m →
      i = .arpUpdate k.ptype k.ip m' ∨ i = .arpInsert k.ptype k.ip m' ∨ i = .arpMerge k.ptype k.ip m' ∨
        ∃ (b : Bytes) (msg : ArpMessage) (a : ArpIPv4Body), i = .arpProcess b ∧ arpInbound b = .ok (msg, a) ∧
          senderKey msg a = k ∧ a.senderMac = m')

/-! ### The whole block -/

/-- R42, R23: a codec or checksum command's outcome depends on its operands alone, and its only effect is its response. -/
def Obligations.CodecAndChecksumCommandsAreStateless : Prop :=
  ∀ i : Instr, stateless i = true →
    (i.wellFormed = true → ∃ r : Response, ∀ s : State, exec i s = .next { s with command := none, response := some r }) ∧
    (i.wellFormed = false → ∃ e : Refusal, ∀ s : State, exec i s = .refused e)

/-- R25, R137: no command writes HOST_MAC or HOST_IP, and only ARP_PROCESS reads them; reset gives them the parameters. -/
def Obligations.HostIdentityIsReadOnly : Prop :=
  (∀ (i : Instr) (s t : State), exec i s = .next t → t.hostMac = s.hostMac ∧ t.hostIp = s.hostIp) ∧
  (∀ (i : Instr) (s t : State) (mac : Mac) (ip : Ip), (∀ b : Bytes, i ≠ .arpProcess b) → exec i s = .next t →
    exec i { s with hostMac := mac, hostIp := ip } = .next { t with hostMac := mac, hostIp := ip }) ∧
  State.reset.hostMac = Config.hostMac ∧ State.reset.hostIp = Config.hostIp

/-- R131: a status other than OK leaves ARPT as it was, with the exception of UNSUPPORTED_LAYER from ARP_PROCESS, which comes after
the merge. -/
def Obligations.ErrorStatusesLeaveTheTable : Prop :=
  ∀ (i : Instr) (s t : State) (r : Response), exec i s = .next t → t.response = some r → r.status ≠ .ok →
    (r.status ≠ .unsupportedLayer → t.arpt = s.arpt) ∧
    (r.status = .unsupportedLayer → ∃ (b : Bytes) (m : ArpMessage) (a : ArpIPv4Body) (draw : Nat), i = .arpProcess b ∧
      arpInbound b = .ok (m, a) ∧ t.arpt = arptPut Config.arpCapacity draw s.arpt ⟨m.protoType, a.senderIp⟩ a.senderMac)

/-- R129, R130: no other code is ever returned than OK and the codes the table gives the command, and no status but OK comes with
a result. -/
def Obligations.StatusesAreThoseOfTheTable : Prop :=
  ∀ (i : Instr) (s t : State), exec i s = .next t → ∃ r : Response, t.response = some r ∧
    r.status ∈ mayReturn i ∧ (r.status ≠ .ok → r.result = none) ∧
    statusCode r.status ∈ [0x00#8, 0x01#8, 0x02#8, 0x03#8, 0x04#8, 0x05#8]

/-- R27: each flag is written only by the commands named for it, by every OK response of theirs, and an error response carries
none but UNSUPPORTED_LAYER's `supported` and `matched`. -/
def Obligations.FlagsAreWrittenByTheirCommands : Prop :=
  ∀ (i : Instr) (s t : State) (r : Response), exec i s = .next t → t.response = some r →
    (r.status = .ok → r.supported.isSome = writesSupported i ∧ r.kind.isSome = writesKind i ∧
      r.matched.isSome = writesMatched i ∧ r.valid.isSome = writesValid i) ∧
    (r.status ≠ .ok → r.kind = none ∧ r.valid = none ∧
      (r.status ≠ .unsupportedLayer → r.supported = none ∧ r.matched = none) ∧
      (r.status = .unsupportedLayer → r.supported = some false ∧ r.matched.isSome = true))

/-- R134, R34: a command completes exactly when it is in the admitted domain; outside it, it is refused by name. -/
def Obligations.RefusalIsExactlyTheInadmissible : Prop :=
  ∀ (i : Instr) (s : State),
    (i.wellFormed = true → ∃ (t : State) (r : Response), exec i s = .next t ∧ t.response = some r ∧ t.command = none) ∧
    (i.wellFormed = false → exec i s = .refused .oversize ∨
      (exec i s = .refused .segmentTooLong ∧
        ((∃ b src dst, i = .tcpDecodeCheck b src dst ∧ 0xFFFF < b.length) ∨
          ∃ h src dst, i = .tcpEncodeFill h src dst ∧ 0xFFFF < 20 + h.options.length + h.payload.length)))

/-- R128, R44: whatever a command's outcome, short of refusal, the block stands ready for the next one. A refusal comes only
outside the admitted domain; for a reserved code that is a byte string over BUF_LEN on any operand port, in a record too, which is
the model's reading (DEDUCED, log entry 9). -/
def Obligations.EveryPresentedCommandIsAnswered : Prop :=
  ∀ (c : Command) (s : State), s.resetInput = false →
    (∃ (t : State) (r : Response), step (present c s) = .next t ∧ t.response = some r ∧ t.command = none ∧ t.resetInput = false) ∨
    (∃ (i : Instr) (e : Refusal), decode c = .ok i ∧ i.wellFormed = false ∧ step (present c s) = .refused e ∧
      (e = .oversize ∨ e = .segmentTooLong)) ∨
    (decode c = .error (.reservedCode c.op) ∧ (∃ b ∈ portBytes c.operands, Config.bufLen < b.length) ∧
      step (present c s) = .refused .oversize)

/-- R45, R44: responses come in command order, one for each command, and a session is its parts in order. -/
def Obligations.ResponsesComeInCommandOrder : Prop :=
  (∀ (cs : List Command) (s t : State) (rs : List Response), s.resetInput = false → serve cs s = .next (t, rs) →
    rs.length = cs.length) ∧
  (∀ (cs ds : List Command) (s t u : State) (rs qs : List Response), serve cs s = .next (t, rs) → serve ds t = .next (u, qs) →
    serve (cs ++ ds) s = .next (u, rs ++ qs)) ∧
  (∀ (c : Command) (s t : State) (r : Response), step (present c s) = .next t → t.response = some r → serve [c] s = .next (t, [r]))

/-- R145, R35: the reset event empties ARPT, loads the identity from the parameters and abandons a command in flight. -/
def Obligations.ResetEmptiesTheBlock : Prop :=
  (∀ s : State, s.resetInput = true → ∃ t : State, step s = .next t ∧ t.arpt = [] ∧ t.hostMac = Config.hostMac ∧
    t.hostIp = Config.hostIp ∧ t.command = none ∧ t.response = none) ∧
  State.reset.arpt = [] ∧ State.reset.hostMac = Config.hostMac ∧ State.reset.hostIp = Config.hostIp ∧
  State.reset.command = none ∧ State.reset.response = none

/-- R143, R141: with no command pending and no reset, the block keeps its state (the model's stutter step, log entry 3). -/
def Obligations.IdleBlockKeepsItsState : Prop :=
  ∀ s : State, s.resetInput = false → s.command = none → step s = .next s

/-- R22, R25, R34, R129: the invariant `good` holds after every step from a state where it holds. -/
def Obligations.EveryStepKeepsTheBlockGood : Prop :=
  ∀ s t : State, good s → step s = .next t → good t

/-- R35: the invariant holds after reset. -/
def Obligations.ResetIsGood : Prop := good State.reset
end

