-- ==== Sys2Proof/Laws/State.lean ====
section
/-!
SUPPORT. One lemma for each field and each named update of the state, so that no later proof unfolds a record update.
-/

namespace Sys2Proof.Machine

section
variable (r : Response) (k : ArpKey) (m : Mac) (c : Command) (s : State) (nbits w : Nat)

@[simp] theorem answer_arpt : (answer r s).arpt = s.arpt := rfl
@[simp] theorem answer_hostMac : (answer r s).hostMac = s.hostMac := rfl
@[simp] theorem answer_hostIp : (answer r s).hostIp = s.hostIp := rfl
@[simp] theorem answer_command : (answer r s).command = none := rfl
@[simp] theorem answer_response : (answer r s).response = some r := rfl
@[simp] theorem answer_resetInput : (answer r s).resetInput = s.resetInput := rfl
@[simp] theorem answer_draws : (answer r s).draws = s.draws := rfl

@[simp] theorem putEntry_arpt :
    (putEntry k m s).arpt = arptPut Config.arpCapacity (Config.victimDraw s.draws) s.arpt k m := rfl
@[simp] theorem putEntry_hostMac : (putEntry k m s).hostMac = s.hostMac := rfl
@[simp] theorem putEntry_hostIp : (putEntry k m s).hostIp = s.hostIp := rfl
@[simp] theorem putEntry_command : (putEntry k m s).command = s.command := rfl
@[simp] theorem putEntry_response : (putEntry k m s).response = s.response := rfl
@[simp] theorem putEntry_resetInput : (putEntry k m s).resetInput = s.resetInput := rfl
@[simp] theorem putEntry_draws :
    (putEntry k m s).draws = if putDraws Config.arpCapacity s.arpt k then s.draws + 1 else s.draws := rfl

@[simp] theorem overwriteEntry_arpt : (overwriteEntry k m s).arpt = arptSet s.arpt k m := rfl
@[simp] theorem overwriteEntry_hostMac : (overwriteEntry k m s).hostMac = s.hostMac := rfl
@[simp] theorem overwriteEntry_hostIp : (overwriteEntry k m s).hostIp = s.hostIp := rfl
@[simp] theorem overwriteEntry_command : (overwriteEntry k m s).command = s.command := rfl
@[simp] theorem overwriteEntry_response : (overwriteEntry k m s).response = s.response := rfl
@[simp] theorem overwriteEntry_resetInput : (overwriteEntry k m s).resetInput = s.resetInput := rfl
@[simp] theorem overwriteEntry_draws : (overwriteEntry k m s).draws = s.draws := rfl

@[simp] theorem applyReset_arpt : (applyReset s).arpt = [] := rfl
@[simp] theorem applyReset_hostMac : (applyReset s).hostMac = Config.hostMac := rfl
@[simp] theorem applyReset_hostIp : (applyReset s).hostIp = Config.hostIp := rfl
@[simp] theorem applyReset_command : (applyReset s).command = none := rfl
@[simp] theorem applyReset_response : (applyReset s).response = none := rfl
@[simp] theorem applyReset_resetInput : (applyReset s).resetInput = false := rfl
@[simp] theorem applyReset_draws : (applyReset s).draws = s.draws := rfl

@[simp] theorem present_arpt : (present c s).arpt = s.arpt := rfl
@[simp] theorem present_hostMac : (present c s).hostMac = s.hostMac := rfl
@[simp] theorem present_hostIp : (present c s).hostIp = s.hostIp := rfl
@[simp] theorem present_command : (present c s).command = some c := rfl
@[simp] theorem present_response : (present c s).response = s.response := rfl
@[simp] theorem present_resetInput : (present c s).resetInput = s.resetInput := rfl
@[simp] theorem present_draws : (present c s).draws = s.draws := rfl

@[simp] theorem withFetchWord_arpt : (s.withFetchWord nbits w).arpt = s.arpt := rfl
@[simp] theorem withFetchWord_hostMac : (s.withFetchWord nbits w).hostMac = s.hostMac := rfl
@[simp] theorem withFetchWord_hostIp : (s.withFetchWord nbits w).hostIp = s.hostIp := rfl
@[simp] theorem withFetchWord_command : (s.withFetchWord nbits w).command = some (commandOfTableWord w) := rfl
@[simp] theorem withFetchWord_response : (s.withFetchWord nbits w).response = s.response := rfl
@[simp] theorem withFetchWord_resetInput : (s.withFetchWord nbits w).resetInput = false := rfl
@[simp] theorem withFetchWord_draws : (s.withFetchWord nbits w).draws = s.draws := rfl

@[simp] theorem assertReset_arpt : (assertReset s).arpt = s.arpt := rfl
@[simp] theorem assertReset_hostMac : (assertReset s).hostMac = s.hostMac := rfl
@[simp] theorem assertReset_hostIp : (assertReset s).hostIp = s.hostIp := rfl
@[simp] theorem assertReset_command : (assertReset s).command = s.command := rfl
@[simp] theorem assertReset_response : (assertReset s).response = s.response := rfl
@[simp] theorem assertReset_resetInput : (assertReset s).resetInput = true := rfl
@[simp] theorem assertReset_draws : (assertReset s).draws = s.draws := rfl

end

end Sys2Proof.Machine
end

