-- ==== Sys2Proof/Laws/Ops.lean ====
section
/-!
SUPPORT. What each shared operation can do, said once: the admission tests and the response (R14, R34, R134).
-/

namespace Sys2Proof.Machine

/-- Every BUF_LEN that R8 admits holds 1514 bytes. -/
theorem le_bufLen : 1514 ≤ Config.bufLen := by unfold Config.bufLen; omega

/-- The first test of `fits` is implied by the second. -/
theorem fits_iff (n : Nat) : fits n = true ↔ n ≤ Config.bufLen := by
  have := le_bufLen
  simp only [fits, Bool.or_eq_true, decide_eq_true_eq]
  omega

theorem admitLength_of_le {n : Nat} (h : n ≤ Config.bufLen) (go : Out) : admitLength n go = go := by
  simp [admitLength, (fits_iff n).2 h]

theorem admitLength_of_lt {n : Nat} (h : Config.bufLen < n) (go : Out) : admitLength n go = .refused .oversize := by
  have : fits n = false := by
    rw [← Bool.not_eq_true, fits_iff]; omega
  simp [admitLength, this]

/-- A command that goes on past the BUF_LEN test had a byte string that fits. -/
theorem admitLength_next {n : Nat} {go : Out} {t : State} : admitLength n go = .next t ↔ n ≤ Config.bufLen ∧ go = .next t := by
  rcases Nat.lt_or_ge Config.bufLen n with h | h
  · simp [admitLength_of_lt h]; omega
  · simp [admitLength_of_le h, h]

theorem admitSegment_of_le {n : Nat} (h : n ≤ 0xFFFF) (go : Out) : admitSegment n go = go := if_pos h

theorem admitSegment_of_lt {n : Nat} (h : 0xFFFF < n) (go : Out) : admitSegment n go = .refused .segmentTooLong :=
  if_neg (by omega)

/-- A command that goes on past the segment test had a segment whose length fits 16 bits. -/
theorem admitSegment_next {n : Nat} {go : Out} {t : State} :
    admitSegment n go = .next t ↔ n ≤ 0xFFFF ∧ go = .next t := by
  rcases Nat.lt_or_ge 0xFFFF n with h | h
  · simp [admitSegment_of_lt h]; omega
  · simp [admitSegment_of_le h, h]

/-- `longest` is the least bound of the lengths. -/
theorem longest_le {bs : List Bytes} {n : Nat} : longest bs ≤ n ↔ ∀ b ∈ bs, b.length ≤ n := by
  induction bs with
  | nil => simp [longest]
  | cons b bs ih => simp only [longest, List.foldr_cons, Nat.max_le, List.forall_mem_cons] at ih ⊢; rw [ih]

theorem lt_longest {bs : List Bytes} {n : Nat} : n < longest bs ↔ ∃ b ∈ bs, n < b.length := by
  rw [← Nat.not_le, longest_le]; simp

/-- A response ends a command in the answered state and nothing else. -/
theorem respond_next {r : Response} {s t : State} : respond r s = .next t ↔ t = answer r s := by
  simp [respond, eq_comm]

theorem execReserved_of_le {p : OperandPorts} (h : ∀ b ∈ portBytes p, b.length ≤ Config.bufLen) (s : State) :
    execReserved p s = respond (raise .illegalCommand) s := admitLength_of_le (longest_le.2 h) _

theorem execReserved_of_lt {p : OperandPorts} (h : ∃ b ∈ portBytes p, Config.bufLen < b.length) (s : State) :
    execReserved p s = .refused .oversize := admitLength_of_lt (lt_longest.2 h) _

/-- A reserved code that is answered carried no byte string over BUF_LEN, and was answered ILLEGAL_COMMAND. -/
theorem execReserved_next {p : OperandPorts} {s t : State} :
    execReserved p s = .next t ↔ (∀ b ∈ portBytes p, b.length ≤ Config.bufLen) ∧ t = answer (raise .illegalCommand) s := by
  rw [execReserved, admitLength_next, respond_next, longest_le]

/-- An encoder that answers had a result that fits, and answered with it. -/
theorem returnBytes_next {out : Bytes} {s t : State} :
    returnBytes out s = .next t ↔ out.length ≤ Config.bufLen ∧ t = answer (okWith (.bytes out)) s := by
  rw [returnBytes, admitLength_next, respond_next]

end Sys2Proof.Machine
end

