-- ==== Sys2Proof/Laws/Arpt.lean ====
section
/-!
SUPPORT. The ARP table's operations: what a read finds after a write, and that every write keeps the canonical form (R22, R118).
-/

namespace Sys2Proof.Machine

/-- The rank orders keys without ties. -/
theorem rank_injective {k k' : ArpKey} (h : k.rank = k'.rank) : k = k' := by
  obtain ⟨p, i⟩ := k
  obtain ⟨p', i'⟩ := k'
  simp only [ArpKey.rank] at h
  have hi := i.isLt
  have hi' := i'.isLt
  have hp : p = p' := BitVec.eq_of_toNat_eq (by omega)
  have hii : i = i' := BitVec.eq_of_toNat_eq (by omega)
  rw [hp, hii]

/-- A present key's entry is in the list. -/
theorem mem_of_arptGet {t : ArpTable} {k : ArpKey} {m : Mac} (h : arptGet t k = some m) : (⟨k, m⟩ : ArpEntry) ∈ t := by
  induction t with
  | nil => simp [arptGet] at h
  | cons e rest ih =>
    simp only [arptGet] at h
    split at h
    · next he =>
      obtain rfl : e.mac = m := by simpa using h
      subst he
      exact List.mem_cons_self
    · exact List.mem_cons_of_mem _ (ih h)

/-- An absent key has no entry in the list. -/
theorem arptGet_eq_none {t : ArpTable} {k : ArpKey} : arptGet t k = none ↔ ∀ e ∈ t, e.key ≠ k := by
  induction t with
  | nil => simp [arptGet]
  | cons e rest ih =>
    simp only [arptGet, List.mem_cons, forall_eq_or_imp]
    split <;> simp_all

/-- A read after a set finds the value set, and every other key as before. -/
theorem arptGet_arptSet (t : ArpTable) (k k' : ArpKey) (m : Mac) :
    arptGet (arptSet t k m) k' = if k' = k then some m else arptGet t k' := by
  induction t with
  | nil => simp [arptSet, arptGet, eq_comm]
  | cons e rest ih =>
    simp only [arptSet]
    split
    · next he => subst he; simp only [arptGet]; split <;> simp_all [eq_comm]
    · split
      · simp only [arptGet]; split <;> simp_all [eq_comm]
      · simp only [arptGet, ih]; split <;> simp_all [eq_comm]

/-- The entries after a set are the old ones and the one set. -/
theorem mem_arptSet {t : ArpTable} {k : ArpKey} {m : Mac} {e : ArpEntry} (h : e ∈ arptSet t k m) : e = ⟨k, m⟩ ∨ e ∈ t := by
  induction t with
  | nil => simpa [arptSet] using h
  | cons x rest ih =>
    simp only [arptSet] at h
    split at h
    · simp only [List.mem_cons] at h ⊢; tauto
    · split at h
      · simp only [List.mem_cons] at h ⊢; tauto
      · simp only [List.mem_cons] at h ⊢
        rcases h with h | h
        · exact .inr (.inl h)
        · rcases ih h with h | h <;> tauto

/-- A set keeps the canonical form. -/
theorem arptSet_wf {t : ArpTable} (h : ArpTable.wf t) (k : ArpKey) (m : Mac) : ArpTable.wf (arptSet t k m) := by
  induction t with
  | nil => simp [arptSet, ArpTable.wf]
  | cons e rest ih =>
    rw [ArpTable.wf, List.pairwise_cons] at h
    simp only [arptSet]
    split
    · next he => subst he; exact List.pairwise_cons.2 ⟨h.1, h.2⟩
    · next hne =>
      split
      · next hlt =>
        refine List.pairwise_cons.2 ⟨?_, List.pairwise_cons.2 h⟩
        intro x hx
        rcases List.mem_cons.1 hx with rfl | hx
        · exact hlt
        · exact Nat.lt_trans hlt (h.1 x hx)
      · next hge =>
        refine List.pairwise_cons.2 ⟨?_, ih h.2⟩
        intro x hx
        rcases mem_arptSet hx with rfl | hx
        · exact Nat.lt_of_le_of_ne (Nat.le_of_not_lt hge) fun hr => hne (rank_injective hr)
        · exact h.1 x hx

/-- A set grows the list by one entry when the key is absent and not otherwise. -/
theorem arptSet_length {t : ArpTable} (h : ArpTable.wf t) (k : ArpKey) (m : Mac) :
    (arptSet t k m).length = if arptHas t k then t.length else t.length + 1 := by
  induction t with
  | nil => simp [arptSet, arptHas, arptGet]
  | cons e rest ih =>
    rw [ArpTable.wf, List.pairwise_cons] at h
    simp only [arptSet, arptHas, arptGet]
    split
    · simp
    · split
      · next hlt =>
        have : arptGet rest k = none := by
          rw [arptGet_eq_none]
          rintro x hx rfl
          exact absurd (h.1 x hx) (by omega)
        simp [this]
      · have := ih h.2
        simp only [arptHas] at this
        simp only [List.length_cons, this]
        split <;> simp [*]

/-- An eviction keeps the canonical form. -/
theorem arptEvict_wf {t : ArpTable} (h : ArpTable.wf t) (draw : Nat) : ArpTable.wf (arptEvict t draw) :=
  List.Pairwise.sublist (List.eraseIdx_sublist ..) h

/-- A put keeps the canonical form. -/
theorem arptPut_wf {t : ArpTable} (h : ArpTable.wf t) (cap : Option Nat) (draw : Nat) (k : ArpKey) (m : Mac) :
    ArpTable.wf (arptPut cap draw t k m) := by
  unfold arptPut
  split
  · exact arptSet_wf (arptEvict_wf h draw) k m
  · exact arptSet_wf h k m

/-- After a put, the key holds the value put. -/
theorem arptGet_arptPut_self (cap : Option Nat) (draw : Nat) (t : ArpTable) (k : ArpKey) (m : Mac) :
    arptGet (arptPut cap draw t k m) k = some m := by
  unfold arptPut
  split <;> simp [arptGet_arptSet]

/-- The table after reset is in canonical form. -/
theorem reset_arpt_wf : ArpTable.wf State.reset.arpt := List.Pairwise.nil

/-- Presence as a Bool and as a read. -/
theorem arptHas_iff (t : ArpTable) (k : ArpKey) : arptHas t k = true ↔ arptGet t k ≠ none := by
  rw [arptHas, Option.isSome_iff_ne_none]

/-- When a put draws a victim (R118). -/
theorem putDraws_iff (cap : Option Nat) (t : ArpTable) (k : ArpKey) :
    putDraws cap t k = true ↔ arptGet t k = none ∧ ∃ n ∈ cap, n ≤ t.length := by
  have hf : arptFull cap t = true ↔ ∃ n ∈ cap, n ≤ t.length := by cases cap <;> simp [arptFull]
  rw [putDraws, Bool.and_eq_true, hf, Bool.not_eq_true', ← Bool.not_eq_true, arptHas_iff]
  simp

/-- Taking an entry out of a table in canonical form takes out its key and no other. -/
theorem arptGet_eraseIdx {t : ArpTable} (h : ArpTable.wf t) (n : Nat) (hn : n < t.length) :
    arptGet (t.eraseIdx n) t[n].key = none ∧ ∀ k, k ≠ t[n].key → arptGet (t.eraseIdx n) k = arptGet t k := by
  induction t generalizing n with
  | nil => simp at hn
  | cons e r ih =>
    rw [ArpTable.wf, List.pairwise_cons] at h
    cases n with
    | zero =>
      simp only [List.eraseIdx_cons_zero, List.getElem_cons_zero]
      refine ⟨?_, fun k hk => ?_⟩
      · rw [arptGet_eq_none]
        intro x hx he
        have := h.1 x hx
        rw [he] at this
        omega
      · rw [arptGet.eq_def (e :: r)]
        simp [Ne.symm hk]
    | succ n =>
      have hn' : n < r.length := by simpa using hn
      obtain ⟨h1, h2⟩ := ih h.2 n hn'
      simp only [List.eraseIdx_cons_succ, List.getElem_cons_succ]
      refine ⟨?_, fun k hk => ?_⟩
      · rw [arptGet, if_neg]
        · exact h1
        · intro he
          have := h.1 _ (List.getElem_mem hn')
          rw [he] at this
          omega
      · rw [arptGet, arptGet, h2 k hk]

/-- A present key has a place in the list. -/
theorem exists_index_of_arptGet {t : ArpTable} {v : ArpKey} (h : arptGet t v ≠ none) :
    ∃ n, ∃ hn : n < t.length, t[n].key = v := by
  by_contra hc
  apply h
  rw [arptGet_eq_none]
  intro e he hv
  obtain ⟨n, hn, rfl⟩ := List.getElem_of_mem he
  exact hc ⟨n, hn, hv⟩

end Sys2Proof.Machine
end

