-- ==== Sys2Proof/Laws/Bytes.lean ====
section
/-!
SUPPORT. The byte-string primitives of R12 and R13: lengths of images, and reads of images.
-/

namespace Sys2Proof.Machine

@[simp] theorem beBytes_length (n v : Nat) : (beBytes n v).length = n := by
  induction n with
  | zero => rfl
  | succ n ih => simp [beBytes, ih]

@[simp] theorem u8_length (v : BitVec 8) : (u8 v).length = 1 := beBytes_length ..
@[simp] theorem u16_length (v : BitVec 16) : (u16 v).length = 2 := beBytes_length ..
@[simp] theorem u32_length (v : BitVec 32) : (u32 v).length = 4 := beBytes_length ..
@[simp] theorem u48_length (v : BitVec 48) : (u48 v).length = 6 := beBytes_length ..

/-- The image of one byte is that byte. -/
@[simp] theorem u8_eq (v : BitVec 8) : u8 v = [v] := by simp [u8, beBytes]

/-- A number read from an n-byte string is below 256^n. -/
theorem beNat_lt (b : Bytes) : beNat b < 2 ^ (8 * b.length) := by
  induction b with
  | nil => simp [beNat]
  | cons x xs ih =>
    have hx := x.isLt
    simp only [beNat, List.length_cons, Nat.shiftLeft_eq]
    have h8 : 2 ^ (8 * (xs.length + 1)) = 2 ^ 8 * 2 ^ (8 * xs.length) := by rw [← pow_add]; congr 1; omega
    rw [h8]
    calc x.toNat * 2 ^ (8 * xs.length) + beNat xs < x.toNat * 2 ^ (8 * xs.length) + 2 ^ (8 * xs.length) := by omega
      _ = (x.toNat + 1) * 2 ^ (8 * xs.length) := by rw [Nat.add_mul, Nat.one_mul]
      _ ≤ 2 ^ 8 * 2 ^ (8 * xs.length) := Nat.mul_le_mul_right _ (by omega)

/-- Reading an image back gives the value's low n bytes. -/
theorem beNat_beBytes (n v : Nat) : beNat (beBytes n v) = v % 2 ^ (8 * n) := by
  induction n with
  | zero => simp [beBytes, beNat, Nat.mod_one]
  | succ n ih =>
    have h8 : 2 ^ (8 * (n + 1)) = 2 ^ (8 * n) * 2 ^ 8 := by rw [← pow_add]; congr 1
    rw [beBytes, beNat, ih, beBytes_length, h8, Nat.mod_mul, Nat.shiftLeft_eq, Nat.shiftRight_eq_div_pow,
      BitVec.toNat_ofNat, Nat.add_comm, Nat.mul_comm (_ % 2 ^ 8)]

/-- The image of the number read from an n-byte string is that string. -/
theorem beBytes_beNat (b : Bytes) : beBytes b.length (beNat b) = b := by
  suffices h : ∀ (n v : Nat), n = b.length → v % 2 ^ (8 * n) = beNat b → beBytes n v = b from
    h _ _ rfl (Nat.mod_eq_of_lt (beNat_lt b))
  induction b with
  | nil => rintro n v rfl _; rfl
  | cons x xs ih =>
    rintro n v rfl hv
    have hlt := beNat_lt xs
    have hpos : 0 < 2 ^ (8 * xs.length) := Nat.two_pow_pos _
    have h8 : 2 ^ (8 * (xs.length + 1)) = 2 ^ (8 * xs.length) * 2 ^ 8 := by rw [← pow_add]; congr 1
    rw [List.length_cons, h8, Nat.mod_mul, beNat, Nat.shiftLeft_eq] at hv
    have hmod : v % 2 ^ (8 * xs.length) = beNat xs := by
      have := congrArg (· % 2 ^ (8 * xs.length)) hv
      simpa [Nat.add_mod, Nat.mod_eq_of_lt hlt] using this
    have hdiv : v / 2 ^ (8 * xs.length) % 2 ^ 8 = x.toNat := by
      rw [hmod, Nat.add_comm, Nat.mul_comm] at hv
      exact Nat.eq_of_mul_eq_mul_right hpos (by rw [Nat.mul_comm]; rw [Nat.mul_comm] at hv; linarith)
    rw [List.length_cons, beBytes, ih _ _ rfl hmod]
    congr 1
    apply BitVec.eq_of_toNat_eq
    rw [BitVec.toNat_ofNat, Nat.shiftRight_eq_div_pow, hdiv]

/-- A sub-string taken just after a prefix of known length. -/
theorem slice_append (p q r : Bytes) : slice (p ++ q ++ r) p.length (p.length + q.length) = q := by
  simp [slice, List.take_append]

/-- A field read at the offset its image stands at. -/
theorem memRead_append (p q r : Bytes) : memRead (p ++ q ++ r) p.length q.length = beNat q := by
  rw [memRead, slice_append]

/-! ### Explicit bytes -/

/-- A byte appended below a number. -/
theorem toNat_append_byte {w : Nat} (x : BitVec w) (y : Byte) : (x ++ y).toNat = x.toNat * 256 + y.toNat := by
  rw [BitVec.toNat_append, ← Nat.shiftLeft_add_eq_or_of_lt y.isLt, Nat.shiftLeft_eq]

/-- Two bytes read as a number are those bytes side by side. -/
theorem ofNat_beNat_two (x y : Byte) : BitVec.ofNat 16 (beNat [x, y]) = x ++ y := by
  apply BitVec.eq_of_toNat_eq
  have := x.isLt
  have := y.isLt
  simp [beNat, toNat_append_byte, Nat.shiftLeft_eq]
  omega

theorem ofNat_beNat_four (x y z u : Byte) : BitVec.ofNat 32 (beNat [x, y, z, u]) = x ++ y ++ z ++ u := by
  apply BitVec.eq_of_toNat_eq
  have := x.isLt
  have := y.isLt
  have := z.isLt
  have := u.isLt
  simp [beNat, toNat_append_byte, Nat.shiftLeft_eq]
  omega

theorem ofNat_beNat_six (x y z u v w : Byte) :
    BitVec.ofNat 48 (beNat [x, y, z, u, v, w]) = x ++ y ++ z ++ u ++ v ++ w := by
  apply BitVec.eq_of_toNat_eq
  have := x.isLt
  have := y.isLt
  have := z.isLt
  have := u.isLt
  have := v.isLt
  have := w.isLt
  simp [beNat, toNat_append_byte, Nat.shiftLeft_eq]
  omega

/-- A 16-bit number and its image, as two bytes. -/
theorem u16_cases (v : BitVec 16) : ∃ x y : Byte, v = x ++ y ∧ u16 v = [x, y] := by
  have hl := u16_length v
  match h : u16 v, hl with
  | [x, y], _ =>
    refine ⟨x, y, ?_, rfl⟩
    rw [← ofNat_beNat_two, ← h, u16, beNat_beBytes]
    apply BitVec.eq_of_toNat_eq
    have := v.isLt
    simp
    omega

theorem u32_cases (v : BitVec 32) : ∃ x y z w : Byte, v = x ++ y ++ z ++ w ∧ u32 v = [x, y, z, w] := by
  have hl := u32_length v
  match h : u32 v, hl with
  | [x, y, z, w], _ =>
    refine ⟨x, y, z, w, ?_, rfl⟩
    rw [← ofNat_beNat_four, ← h, u32, beNat_beBytes]
    apply BitVec.eq_of_toNat_eq
    have := v.isLt
    simp
    omega

theorem u48_cases (v : BitVec 48) :
    ∃ x y z w r q : Byte, v = x ++ y ++ z ++ w ++ r ++ q ∧ u48 v = [x, y, z, w, r, q] := by
  have hl := u48_length v
  match h : u48 v, hl with
  | [x, y, z, w, r, q], _ =>
    refine ⟨x, y, z, w, r, q, ?_, rfl⟩
    rw [← ofNat_beNat_six, ← h, u48, beNat_beBytes]
    apply BitVec.eq_of_toNat_eq
    have := v.isLt
    simp
    omega

/-! ### Packed fields (R67) -/

@[simp] theorem highNibble_packNibbles (a b : BitVec 4) : highNibble (packNibbles a b) = a := by
  apply BitVec.eq_of_getLsbD_eq
  intro i hi
  simp only [highNibble, packNibbles, BitVec.getLsbD_extractLsb', BitVec.getLsbD_append]
  simp [hi]

@[simp] theorem lowNibble_packNibbles (a b : BitVec 4) : lowNibble (packNibbles a b) = b := by
  apply BitVec.eq_of_getLsbD_eq
  intro i hi
  simp only [lowNibble, packNibbles, BitVec.getLsbD_extractLsb', BitVec.getLsbD_append]
  simp [hi]

@[simp] theorem packNibbles_split (x : Byte) : packNibbles (highNibble x) (lowNibble x) = x := by
  apply BitVec.eq_of_getLsbD_eq
  intro i hi
  simp only [highNibble, lowNibble, packNibbles, BitVec.getLsbD_append, BitVec.getLsbD_extractLsb']
  split
  · simp [*]
  · have h1 : i - 4 < 4 := by omega
    have h2 : 4 + (i - 4) = i := by omega
    simp [h1, h2]

@[simp] theorem flagsOf_packFragment (a : BitVec 3) (b : BitVec 13) : flagsOf (packFragment a b) = a := by
  apply BitVec.eq_of_getLsbD_eq
  intro i hi
  simp only [flagsOf, packFragment, BitVec.getLsbD_extractLsb', BitVec.getLsbD_append]
  simp [hi]

@[simp] theorem fragmentOffsetOf_packFragment (a : BitVec 3) (b : BitVec 13) : fragmentOffsetOf (packFragment a b) = b := by
  apply BitVec.eq_of_getLsbD_eq
  intro i hi
  simp only [fragmentOffsetOf, packFragment, BitVec.getLsbD_extractLsb', BitVec.getLsbD_append]
  simp [hi]

@[simp] theorem packFragment_split (x : BitVec 16) : packFragment (flagsOf x) (fragmentOffsetOf x) = x := by
  apply BitVec.eq_of_getLsbD_eq
  intro i hi
  simp only [flagsOf, fragmentOffsetOf, packFragment, BitVec.getLsbD_append, BitVec.getLsbD_extractLsb']
  split
  · simp [*]
  · have h1 : i - 13 < 3 := by omega
    have h2 : 13 + (i - 13) = i := by omega
    simp [h1, h2]

end Sys2Proof.Machine
end

