-- ==== Sys2Proof/Laws/Checksum.lean ====
section
/-!
SUPPORT. The checksum engine's sums: a byte string's word sum, piece by piece, and what an in-place 16-bit write does to it (R74,
R75, R79).
-/

namespace Sys2Proof.Machine

@[simp] theorem wordSum_nil : wordSum [] = 0 := rfl

theorem wordSum_singleton (x : Byte) : wordSum [x] = x.toNat * 256 := by simp [wordSum, words, toNat_append_byte]

theorem wordSum_cons_cons (x y : Byte) (r : Bytes) : wordSum (x :: y :: r) = x.toNat * 256 + y.toNat + wordSum r := by
  simp [wordSum, words, toNat_append_byte]

/-- A string cut at an even offset. -/
theorem wordSum_append (p q : Bytes) (h : p.length % 2 = 0) : wordSum (p ++ q) = wordSum p + wordSum q := by
  induction p using words.induct with
  | case1 => simp
  | case2 => simp at h
  | case3 x y r ih =>
    simp only [List.cons_append, wordSum_cons_cons]
    rw [ih (by simp at h; omega)]
    omega

theorem wordSum_u16 (v : BitVec 16) : wordSum (u16 v) = v.toNat := by
  obtain ⟨x, y, rfl, h⟩ := u16_cases v
  rw [h, wordSum_cons_cons, toNat_append_byte, wordSum_nil, Nat.add_zero]

@[simp] theorem memWrite16_length (e : Bytes) (o : Nat) (v : BitVec 16) (h : o + 2 ≤ e.length) :
    (memWrite16 e o v).length = e.length := by
  simp [memWrite16, slice]
  omega

/-- A write at an even offset adds the written word to the sum of the zeroed image. -/
theorem wordSum_memWrite16 (e : Bytes) (o : Nat) (v : BitVec 16) (ho : o % 2 = 0) (hl : o + 2 ≤ e.length) :
    wordSum (memWrite16 e o v) = wordSum (memWrite16 e o 0#16) + v.toNat := by
  have hs : (slice e 0 o).length = o := by
    simp [slice]
    omega
  have key : ∀ w : BitVec 16, wordSum (memWrite16 e o w) = wordSum (slice e 0 o) + w.toNat + wordSum (e.drop (o + 2)) := by
    intro w
    rw [memWrite16, wordSum_append _ _ (by simp [hs]; omega), wordSum_append _ _ (by omega), wordSum_u16]
  rw [key, key]
  simp
  omega

/-- The second of two writes at one place stays. -/
theorem memWrite16_memWrite16 (e : Bytes) (o : Nat) (v w : BitVec 16) (hl : o + 2 ≤ e.length) :
    memWrite16 (memWrite16 e o v) o w = memWrite16 e o w := by
  have hs : (slice e 0 o).length = o := by
    simp [slice]
    omega
  have hd : (memWrite16 e o v).drop (o + 2) = e.drop (o + 2) := by
    have h2 : o + 2 = (slice e 0 o ++ u16 v).length := by simp [hs]
    rw [memWrite16, List.drop_append_of_le_length h2.le, List.drop_of_length_le h2.ge, List.nil_append]
  have ht : slice (memWrite16 e o v) 0 o = slice e 0 o := by
    have h0 : ∀ b : Bytes, slice b 0 o = b.take o := by simp [slice]
    rw [h0, memWrite16, List.append_assoc, h0, List.take_append_of_le_length (by simp; omega)]
    simp
  rw [memWrite16, hd, ht, memWrite16]

end Sys2Proof.Machine
end

