-- ==== Sys2Proof/Laws/Decode.lean ====
section
/-!
SUPPORT. What the decoder's row selection can answer, and when (R52, R53).
-/

namespace Sys2Proof

/-- A selected row is a row of the map, under the code that selected it. -/
theorem selectRow_mem {op : BitVec 8} {f : OperandPorts → Instr} {rows : List (BitVec 8 × (OperandPorts → Instr))}
    (h : selectRow op rows = some f) : (op, f) ∈ rows := by
  induction rows with
  | nil => cases h
  | cons row rest ih =>
    simp only [selectRow] at h
    split at h
    · next he => obtain rfl := Option.some.inj h; rw [he]; exact List.mem_cons_self
    · exact List.mem_cons_of_mem _ (ih h)

/-- No row is selected exactly when no row has the code. -/
theorem selectRow_eq_none {op : BitVec 8} {rows : List (BitVec 8 × (OperandPorts → Instr))} :
    selectRow op rows = none ↔ op ∉ rows.map Prod.fst := by
  induction rows with
  | nil => simp [selectRow]
  | cons row rest ih =>
    simp only [selectRow, List.map_cons, List.mem_cons, not_or]
    split <;> simp_all

end Sys2Proof
end

