-- ==== Sys2Proof/Laws/PerInstr.lean ====
section
/-!
SUPPORT. The per-instruction family TableCode: the encoding of every instruction carries a code of spec/opcode_table.json, the one
of its row (R53).
-/

namespace Sys2Proof.Laws.TableCode

/-- The row's code (R53). -/
def rowCode : Instr → Nat
  | .csumSum16 _ _ => 0x01
  | .csumChecksum _ _ => 0x02
  | .csumVerify _ _ => 0x03
  | .csumPseudo _ _ _ => 0x04
  | .ethDecode _ => 0x10
  | .ethEncode _ => 0x11
  | .arpDecode _ => 0x12
  | .arpEncode _ => 0x13
  | .arpv4Decode _ => 0x14
  | .arpv4Encode _ => 0x15
  | .ipv4Decode _ => 0x20
  | .ipv4Encode _ => 0x21
  | .ipv4EncodeFill _ => 0x22
  | .icmpDecode _ => 0x24
  | .icmpEncode _ => 0x25
  | .icmpEncodeFill _ => 0x26
  | .tcpDecode _ => 0x30
  | .tcpDecodeCheck _ _ _ => 0x31
  | .tcpEncode _ => 0x32
  | .tcpEncodeFill _ _ _ => 0x33
  | .arpLookup _ => 0x40
  | .arpUpdate _ _ _ => 0x41
  | .arpInsert _ _ _ => 0x42
  | .arpMerge _ _ _ => 0x43
  | .arpProcess _ => 0x44

/-- The encoded code is the row's, and the decoder's map has a row for it. -/
def Statement (i : Instr) : Prop := (encode i).op.toNat = rowCode i ∧ (selectRow (encode i).op commandMap).isSome = true

theorem csumSum16 (b : Bytes) (carry : BitVec 32) : Statement (.csumSum16 b carry) := ⟨rfl, rfl⟩
theorem csumChecksum (b : Bytes) (carry : BitVec 32) : Statement (.csumChecksum b carry) := ⟨rfl, rfl⟩
theorem csumVerify (b : Bytes) (carry : BitVec 32) : Statement (.csumVerify b carry) := ⟨rfl, rfl⟩
theorem csumPseudo (src : Ip) (dst : Ip) (seglen : BitVec 16) : Statement (.csumPseudo src dst seglen) := ⟨rfl, rfl⟩
theorem ethDecode (b : Bytes) : Statement (.ethDecode b) := ⟨rfl, rfl⟩
theorem ethEncode (f : EthernetFrame) : Statement (.ethEncode f) := ⟨rfl, rfl⟩
theorem arpDecode (b : Bytes) : Statement (.arpDecode b) := ⟨rfl, rfl⟩
theorem arpEncode (m : ArpMessage) : Statement (.arpEncode m) := ⟨rfl, rfl⟩
theorem arpv4Decode (b : Bytes) : Statement (.arpv4Decode b) := ⟨rfl, rfl⟩
theorem arpv4Encode (a : ArpIPv4Body) : Statement (.arpv4Encode a) := ⟨rfl, rfl⟩
theorem ipv4Decode (b : Bytes) : Statement (.ipv4Decode b) := ⟨rfl, rfl⟩
theorem ipv4Encode (h : IPv4Header) : Statement (.ipv4Encode h) := ⟨rfl, rfl⟩
theorem ipv4EncodeFill (h : IPv4Header) : Statement (.ipv4EncodeFill h) := ⟨rfl, rfl⟩
theorem icmpDecode (b : Bytes) : Statement (.icmpDecode b) := ⟨rfl, rfl⟩
theorem icmpEncode (h : Icmpv4Header) : Statement (.icmpEncode h) := ⟨rfl, rfl⟩
theorem icmpEncodeFill (h : Icmpv4Header) : Statement (.icmpEncodeFill h) := ⟨rfl, rfl⟩
theorem tcpDecode (b : Bytes) : Statement (.tcpDecode b) := ⟨rfl, rfl⟩
theorem tcpDecodeCheck (b : Bytes) (src : Ip) (dst : Ip) : Statement (.tcpDecodeCheck b src dst) := ⟨rfl, rfl⟩
theorem tcpEncode (h : TcpHeader) : Statement (.tcpEncode h) := ⟨rfl, rfl⟩
theorem tcpEncodeFill (h : TcpHeader) (src : Ip) (dst : Ip) : Statement (.tcpEncodeFill h src dst) := ⟨rfl, rfl⟩
theorem arpLookup (ip : Ip) : Statement (.arpLookup ip) := ⟨rfl, rfl⟩
theorem arpUpdate (ptype : BitVec 16) (ip : Ip) (mac : Mac) : Statement (.arpUpdate ptype ip mac) := ⟨rfl, rfl⟩
theorem arpInsert (ptype : BitVec 16) (ip : Ip) (mac : Mac) : Statement (.arpInsert ptype ip mac) := ⟨rfl, rfl⟩
theorem arpMerge (ptype : BitVec 16) (ip : Ip) (mac : Mac) : Statement (.arpMerge ptype ip mac) := ⟨rfl, rfl⟩
theorem arpProcess (b : Bytes) : Statement (.arpProcess b) := ⟨rfl, rfl⟩

end Sys2Proof.Laws.TableCode
end

