-- ==== Sys2Proof/Tests/Slice0.lean ====
section
/-!
SUPPORT. The model's own tests: the well-formedness smoke tests, the command map, the vectors of spec/95_test_vectors.md, and for
each obligation with hypotheses a witness that meets them. Expected values are those of the vectors named in each docstring.
-/

namespace Sys2Proof.Tests

open Sys2Proof Sys2Proof.Machine Sys2Proof.Safety

/-! ### Small states and strings -/

/-- The test configuration of D22: HOST_MAC = 02:00:00:00:00:04, HOST_IP = 10.0.0.4, an empty table. -/
def s0 : State := ⟨[], 0x020000000004#48, 0x0a000004#32, none, none, false, 0⟩

/-- The same with one entry, 10.0.0.1 ↦ 52:54:00:aa:bb:cc. -/
def s1 : State := { s0 with arpt := [⟨⟨0x0800#16, 0x0a000001#32⟩, 0x525400aabbcc#48⟩] }

/-- The same with an entry of another protocol type, which ARP_LOOKUP does not see. -/
def s2 : State := { s0 with arpt := [⟨⟨0x86dd#16, 0x0a000001#32⟩, 0x525400aabbcc#48⟩] }

/-- A byte string exactly as long as BUF_LEN, less `n`. -/
def full (n : Nat) : Bytes := List.replicate (Config.bufLen - n) 0#8

/-- A byte string one byte too long for BUF_LEN, less `n`. -/
def tooLong (n : Nat) : Bytes := List.replicate (Config.bufLen + 1 - n) 0#8

theorem full_length (n : Nat) : (full n).length = Config.bufLen - n := List.length_replicate

/-- A segment of `n` zero bytes. -/
def segment (n : Nat) : Bytes := List.replicate n 0#8

theorem segment_length (n : Nat) : (segment n).length = n := List.length_replicate
theorem tooLong_length (n : Nat) : (tooLong n).length = Config.bufLen + 1 - n := List.length_replicate

/-- The IPv4 header of L1.3. -/
def l13 : Bytes := [0x45, 0x00, 0x00, 0x3c, 0x61, 0xaf, 0x40, 0x00, 0x40, 0x06, 0x0d, 0x5f, 0xc0, 0xa8, 0x01, 0x02, 0x0a, 0x00, 0x00, 0x04]

/-- The record of L1.3. -/
def h13 : IPv4Header where
  version := 4
  ihl := 5
  tos := 0
  totalLen := 60
  id := 0x61af
  flags := 2
  fragmentOffset := 0
  ttl := 64
  protocol := 6
  checksum := 0x0d5f
  srcAddr := 0xc0a80102
  dstAddr := 0x0a000004
  options := []
  payload := []

/-- The header of L2.I12, whose checksum field holds negative zero. -/
def i12 : Bytes := [0x45, 0x00, 0x00, 0x14, 0x66, 0xe0, 0x00, 0x00, 0x40, 0x06, 0xff, 0xff, 0x0a, 0x00, 0x00, 0x01, 0x0a, 0x00, 0x00, 0x04]

/-- The echo request of L1.4 and its record. -/
def m14 : Bytes := [0x08, 0x00, 0x33, 0x37, 0x00, 0x01, 0x00, 0x01, 0x61, 0x62, 0x63, 0x64]
def r14 : Icmpv4Header := ⟨8, 0, 0x3337, [0x00, 0x01, 0x00, 0x01, 0x61, 0x62, 0x63, 0x64]⟩

/-- The segment S of section 2.6 and its record. -/
def segS : Bytes := [0x84, 0xcc, 0x05, 0x39, 0x6c, 0xcc, 0xd6, 0x21, 0x00, 0x00, 0x00, 0x00, 0x50, 0x02, 0x72, 0x10, 0xa5, 0x30, 0x00, 0x00]
def hdrS : TcpHeader := ⟨33996, 1337, 1825363489, 0, 5, 0x02, 29200, 0xa530, 0, [], []⟩

/-- The record of L2.T14, with four option bytes. -/
def hdrT14 : TcpHeader := ⟨1337, 80, 100, 0, 6, 0x02, 1024, 0, 0, [0x02, 0x04, 0x05, 0xb4], []⟩

/-- The ARP request REQ of section 2.7, its reply in L2.A1, and the Reply of L2.A3. -/
def req : Bytes :=
  [0xff, 0xff, 0xff, 0xff, 0xff, 0xff, 0x52, 0x54, 0x00, 0x12, 0x34, 0x56, 0x08, 0x06] ++
  [0x00, 0x01, 0x08, 0x00, 0x06, 0x04, 0x00, 0x01] ++
  [0x52, 0x54, 0x00, 0x12, 0x34, 0x56, 0x0a, 0x00, 0x00, 0x01, 0x00, 0x00, 0x00, 0x00, 0x00, 0x00, 0x0a, 0x00, 0x00, 0x04]
def replyA1 : Bytes :=
  [0x52, 0x54, 0x00, 0x12, 0x34, 0x56, 0x02, 0x00, 0x00, 0x00, 0x00, 0x04, 0x08, 0x06] ++
  [0x00, 0x01, 0x08, 0x00, 0x06, 0x04, 0x00, 0x02] ++
  [0x02, 0x00, 0x00, 0x00, 0x00, 0x04, 0x0a, 0x00, 0x00, 0x04, 0x52, 0x54, 0x00, 0x12, 0x34, 0x56, 0x0a, 0x00, 0x00, 0x01]
def inA3 : Bytes :=
  [0x02, 0x00, 0x00, 0x00, 0x00, 0x04, 0x52, 0x54, 0x00, 0x12, 0x34, 0x56, 0x08, 0x06] ++
  [0x00, 0x01, 0x08, 0x00, 0x06, 0x04, 0x00, 0x02] ++
  [0x52, 0x54, 0x00, 0x12, 0x34, 0x56, 0x0a, 0x00, 0x00, 0x01, 0x02, 0x00, 0x00, 0x00, 0x00, 0x04, 0x0a, 0x00, 0x00, 0x04]

/-! ### Well-formedness: each check refuses an ill-formed term -/

/-- The byte-string operand of every decode, checksum and ARP_PROCESS command (R34). -/
theorem test_wellFormed_operand :
    ∀ i ∈ [Instr.csumSum16 (tooLong 0) 0, .csumChecksum (tooLong 0) 0, .csumVerify (tooLong 0) 0, .ethDecode (tooLong 0), .arpDecode (tooLong 0),
      .arpv4Decode (tooLong 0), .ipv4Decode (tooLong 0), .icmpDecode (tooLong 0), .tcpDecode (tooLong 0), .tcpDecodeCheck (tooLong 0) 0 0,
      .arpProcess (tooLong 0)], i.wellFormed = false := by
  simp [Instr.wellFormed, fitsBuffer, tooLong_length]

/-- The encoded result of every encoder, by its payload, and by its options where it has them (R34). -/
theorem test_wellFormed_result :
    ∀ i ∈ [Instr.ethEncode ⟨0, 0, 0, tooLong 14⟩, .arpEncode ⟨0, 0, 0, 0, 0, tooLong 8⟩, .ipv4Encode { h13 with payload := tooLong 20 },
      .ipv4Encode { h13 with options := tooLong 20 }, .ipv4EncodeFill { h13 with payload := tooLong 20 },
      .ipv4EncodeFill { h13 with options := tooLong 20 }, .icmpEncode { r14 with data := tooLong 4 },
      .icmpEncodeFill { r14 with data := tooLong 4 }, .tcpEncode { hdrS with payload := tooLong 20 },
      .tcpEncode { hdrS with options := tooLong 20 }, .tcpEncodeFill { hdrS with payload := tooLong 20 } 0 0,
      .tcpEncodeFill { hdrS with options := tooLong 20 } 0 0], i.wellFormed = false := by
  have := le_bufLen
  simp [Instr.wellFormed, fitsBuffer, tooLong_length, h13, hdrS]
  omega

/-- The segment length of the two checksummed TCP commands (R110). -/
theorem test_wellFormed_segment :
    (Instr.tcpDecodeCheck (segment 0x10000) 0 0).wellFormed = false ∧
    (Instr.tcpEncodeFill { hdrS with payload := segment 0xFFEC } 0 0).wellFormed = false := by
  have h : fitsSegment 0x10000 = false := by decide
  have h' : 20 + hdrS.options.length + 0xFFEC = 0x10000 := by simp only [hdrS, List.length_nil]
  constructor
  · rw [Instr.wellFormed, segment_length, h, Bool.and_false]
  · simp only [Instr.wellFormed, segment_length, h', h, Bool.and_false]

/-- The boundary itself is well-formed. -/
theorem test_wellFormed_boundary :
    (Instr.ethDecode (full 0)).wellFormed = true ∧ (Instr.ethEncode ⟨0, 0, 0, full 14⟩).wellFormed = true ∧
    (Instr.ipv4EncodeFill { h13 with payload := full 20 }).wellFormed = true ∧
    (Instr.icmpEncode { r14 with data := full 4 }).wellFormed = true := by
  have := le_bufLen
  simp [Instr.wellFormed, fitsBuffer, full_length, h13]
  omega

/-! ### Decoding: each code of R53, written out, is its command -/

/-- R53, family 0: `fam` = 0 in bits 7:4, `fn` in bits 3:0. -/
theorem test_decode_csum :
    decodeTableWord 8 0b00000001 = some (.csumSum16 [] 0) ∧ decodeTableWord 8 0b00000010 = some (.csumChecksum [] 0) ∧
    decodeTableWord 8 0b00000011 = some (.csumVerify [] 0) ∧ decodeTableWord 8 0b00000100 = some (.csumPseudo 0 0 0) := by decide

/-- R53, family 1. -/
theorem test_decode_link :
    decode ⟨0b00010000, { b := [1] }⟩ = .ok (.ethDecode [1]) ∧
    decode ⟨0b00010001, { f := ⟨1, 2, 3, [4]⟩ }⟩ = .ok (.ethEncode ⟨1, 2, 3, [4]⟩) ∧
    decode ⟨0b00010010, { b := [1] }⟩ = .ok (.arpDecode [1]) ∧
    decode ⟨0b00010011, { m := ⟨1, 2, 3, 4, 5, [6]⟩ }⟩ = .ok (.arpEncode ⟨1, 2, 3, 4, 5, [6]⟩) ∧
    decode ⟨0b00010100, { b := [1] }⟩ = .ok (.arpv4Decode [1]) ∧
    decode ⟨0b00010101, { a := ⟨1, 2, 3, 4⟩ }⟩ = .ok (.arpv4Encode ⟨1, 2, 3, 4⟩) := ⟨rfl, rfl, rfl, rfl, rfl, rfl⟩

/-- R53, family 2; code 0x23 is reserved (R54). -/
theorem test_decode_ip :
    decode ⟨0b00100000, { b := [1] }⟩ = .ok (.ipv4Decode [1]) ∧ decode ⟨0b00100001, { ipv4 := h13 }⟩ = .ok (.ipv4Encode h13) ∧
    decode ⟨0b00100010, { ipv4 := h13 }⟩ = .ok (.ipv4EncodeFill h13) ∧ decode ⟨0b00100100, { b := [1] }⟩ = .ok (.icmpDecode [1]) ∧
    decode ⟨0b00100101, { icmp := r14 }⟩ = .ok (.icmpEncode r14) ∧ decode ⟨0b00100110, { icmp := r14 }⟩ = .ok (.icmpEncodeFill r14) ∧
    decode ⟨0b00100011, {}⟩ = .error (.reservedCode 0x23) := ⟨rfl, rfl, rfl, rfl, rfl, rfl, rfl⟩

/-- R53, family 3. -/
theorem test_decode_tcp :
    decode ⟨0b00110000, { b := [1] }⟩ = .ok (.tcpDecode [1]) ∧
    decode ⟨0b00110001, { b := [1], src := 2, dst := 3 }⟩ = .ok (.tcpDecodeCheck [1] 2 3) ∧
    decode ⟨0b00110010, { tcp := hdrS }⟩ = .ok (.tcpEncode hdrS) ∧
    decode ⟨0b00110011, { tcp := hdrS, src := 2, dst := 3 }⟩ = .ok (.tcpEncodeFill hdrS 2 3) := ⟨rfl, rfl, rfl, rfl⟩

/-- R53, family 4. -/
theorem test_decode_arpt :
    decode ⟨0b01000000, { ip := 1 }⟩ = .ok (.arpLookup 1) ∧
    decode ⟨0b01000001, { ptype := 1, ip := 2, mac := 3 }⟩ = .ok (.arpUpdate 1 2 3) ∧
    decode ⟨0b01000010, { ptype := 1, ip := 2, mac := 3 }⟩ = .ok (.arpInsert 1 2 3) ∧
    decode ⟨0b01000011, { ptype := 1, ip := 2, mac := 3 }⟩ = .ok (.arpMerge 1 2 3) ∧
    decode ⟨0b01000100, { b := [1] }⟩ = .ok (.arpProcess [1]) := ⟨rfl, rfl, rfl, rfl, rfl⟩

/-- L2.A14, and 0xff of L3.P5: reserved codes answer ILLEGAL_COMMAND. -/
theorem test_reserved :
    responseOf (step (present ⟨0x45, {}⟩ s1)) = some { status := .illegalCommand } ∧
    responseOf (step (present ⟨0xff, {}⟩ s1)) = some { status := .illegalCommand } := by decide

/-- R132, R134, R144: a reserved code with a byte string over BUF_LEN is refused. -/
theorem test_reserved_oversize : step (present ⟨0x45, { b := tooLong 0 }⟩ s1) = .refused .oversize :=
  have h (p : OperandPorts) : step (present ⟨0x45, p⟩ s1) = execReserved p (present ⟨0x45, p⟩ s1) := rfl
  (h _).trans (execReserved_of_lt ⟨tooLong 0, by simp [portBytes], by simp [tooLong_length]⟩ _)

/-- A table word runs as the very next step. -/
theorem test_withFetchWord : responseOf (step (State.reset.withFetchWord 8 0x10)) = some { status := .truncatedInput } := by decide

/-! ### The checksum engine -/

/-- L2.C1, L2.C13. -/
theorem test_csumSum16 :
    responseOf (exec (.csumSum16 [0x00, 0x01, 0xf2, 0x03, 0xf4, 0xf5, 0xf6, 0xf7] 0) s0) = some { status := .ok, result := some (.value32 0xddf2) } ∧
    responseOf (exec (.csumSum16 [] 0xffffffff) s0) = some { status := .ok, result := some (.value32 0xffff) } := by decide

/-- L2.C4, L2.C16. -/
theorem test_csumChecksum :
    responseOf (exec (.csumChecksum [0x01] 0) s0) = some { status := .ok, result := some (.value16 0xfeff) } ∧
    responseOf (exec (.csumChecksum [0xab, 0xcd, 0xef] 0) s0) = some { status := .ok, result := some (.value16 0x6531) } := by decide

/-- L2.C7, L2.C10. -/
theorem test_csumVerify :
    responseOf (exec (.csumVerify [] 0) s0) = some { status := .ok, valid := some false } ∧
    responseOf (exec (.csumVerify [0xff, 0xff, 0xff, 0xff] 0) s0) = some { status := .ok, valid := some true } := by decide

/-- L2.C18, L2.C19. -/
theorem test_csumPseudo :
    responseOf (exec (.csumPseudo 0xffffffff 0xffffffff 0xffff) s0) = some { status := .ok, result := some (.value16 0x0006) } ∧
    responseOf (exec (.csumPseudo 0xc0a80102 0x0a000004 40) s0) = some { status := .ok, result := some (.value16 0xcbdc) } := by decide

/-! ### Link-layer codecs -/

/-- L2.E1. -/
theorem test_ethDecode_short :
    responseOf (exec (.ethDecode (req.take 13)) s0) = some { status := .truncatedInput } := by decide

/-- L2.E3. -/
theorem test_ethDecode :
    responseOf (exec (.ethDecode [0x02, 0x00, 0x00, 0x00, 0x00, 0x04, 0x52, 0x54, 0x00, 0x12, 0x34, 0x56, 0x86, 0xdd, 0x60]) s0) =
      some { status := .ok, result := some (.ethernet ⟨0x020000000004, 0x525400123456, 0x86dd, [0x60]⟩), kind := some .other } := by
  decide

/-- L2.E5. -/
theorem test_ethEncode :
    responseOf (exec (.ethEncode ⟨0x525400123456, 0x020000000004, 0x0800, []⟩) s0) = some {
      status := .ok
      result := some (.bytes [0x52, 0x54, 0x00, 0x12, 0x34, 0x56, 0x02, 0x00, 0x00, 0x00, 0x00, 0x04, 0x08, 0x00]) } := by decide

/-- L2.R4. -/
theorem test_arpDecode_unsupported :
    responseOf (exec (.arpDecode [0x00, 0x01, 0x86, 0xdd, 0x06, 0x10, 0x00, 0x01]) s0) =
      some { status := .ok, result := some (.arp ⟨1, 0x86dd, 6, 16, 1, []⟩), supported := some false } := by decide

/-- L2.R5. -/
theorem test_arpDecode :
    responseOf (exec (.arpDecode [0x00, 0x01, 0x08, 0x00, 0x08, 0x02, 0x00, 0x03]) s0) =
      some { status := .ok, result := some (.arp ⟨1, 0x0800, 8, 2, 3, []⟩), supported := some true } := by decide

/-- L2.R6. -/
theorem test_arpEncode :
    responseOf (exec (.arpEncode ⟨1, 0x0800, 6, 4, 2, []⟩) s0) =
      some { status := .ok, result := some (.bytes [0x00, 0x01, 0x08, 0x00, 0x06, 0x04, 0x00, 0x02]) } := by decide

/-- L2.R9: padding after the 20 bytes is ignored. -/
theorem test_arpv4Decode :
    responseOf (exec (.arpv4Decode (req.drop 22 ++ List.replicate 18 0)) s0) =
      some { status := .ok, result := some (.arpv4 ⟨0x525400123456, 0x0a000001, 0, 0x0a000004⟩) } := by decide

/-- L2.R10. -/
theorem test_arpv4Encode :
    responseOf (exec (.arpv4Encode ⟨0x525400123456, 0x0a000001, 0, 0x0a000004⟩) s0) =
      some { status := .ok, result := some (.bytes (req.drop 22)) } := by decide

/-! ### IPv4 and ICMPv4 -/

/-- L1.3. -/
theorem test_ipv4Decode :
    responseOf (exec (.ipv4Decode l13) s0) =
      some { status := .ok, result := some (.ipv4 h13), supported := some true, kind := some .tcp } := by decide

/-- L2.I3 and L2.I4: the checksum is tested before the header length. -/
theorem test_ipv4Decode_order :
    responseOf (exec (.ipv4Decode (0x4f :: l13.tail)) s0) = some { status := .invalidChecksum } ∧
    responseOf (exec (.ipv4Decode [0x4f, 0x00, 0x00, 0x14, 0x00, 0x00, 0x00, 0x00, 0x40, 0x06, 0x5c, 0xe0, 0x0a, 0x00, 0x00, 0x01,
      0x0a, 0x00, 0x00, 0x04]) s0) = some { status := .truncatedInput } := by decide

/-- L2.I15: a record whose ihl disagrees with its options is written verbatim. -/
theorem test_ipv4Encode :
    responseOf (exec (.ipv4Encode { h13 with ihl := 6 }) s0) = some { status := .ok, result := some (.bytes (0x46 :: l13.tail)) } := by
  decide

/-- L2.I10. -/
theorem test_ipv4EncodeFill :
    responseOf (exec (.ipv4EncodeFill ⟨4, 5, 0, 32, 0x1234, 2, 0, 64, 1, 0, 0x0a000004, 0x0a000001, [], []⟩) s0) = some {
      status := .ok
      result := some (.bytes [0x45, 0x00, 0x00, 0x20, 0x12, 0x34, 0x40, 0x00, 0x40, 0x01, 0x14, 0xa5, 0x0a, 0x00, 0x00, 0x04,
        0x0a, 0x00, 0x00, 0x01]) } := by decide

/-- L2.I13: a fill writes 0x0000 where the sum of the rest is 0xFFFF. -/
theorem test_ipv4EncodeFill_negativeZero :
    responseOf (exec (.ipv4EncodeFill (ipv4Parse i12 20)) s0) = some {
      status := .ok
      result := some (.bytes [0x45, 0x00, 0x00, 0x14, 0x66, 0xe0, 0x00, 0x00, 0x40, 0x06, 0x00, 0x00, 0x0a, 0x00, 0x00, 0x01,
        0x0a, 0x00, 0x00, 0x04]) } := by decide

/-- L1.4. -/
theorem test_icmpDecode : responseOf (exec (.icmpDecode m14) s0) = some { status := .ok, result := some (.icmp r14) } := by decide

/-- L2.M6. -/
theorem test_icmpDecode_zero : responseOf (exec (.icmpDecode [0, 0, 0, 0]) s0) = some { status := .invalidChecksum } := by decide

/-- L2.M8. -/
theorem test_icmpEncode :
    responseOf (exec (.icmpEncode ⟨8, 0, 0xbeef, []⟩) s0) = some { status := .ok, result := some (.bytes [0x08, 0x00, 0xbe, 0xef]) } := by
  decide

/-- L2.M3 (odd length) and L2.M5 (the checksum of an all-zero message). -/
theorem test_icmpEncodeFill :
    responseOf (exec (.icmpEncodeFill ⟨8, 0, 0, [0x00, 0x01, 0x00, 0x01, 0x61, 0x62, 0x63]⟩) s0) =
      some { status := .ok, result := some (.bytes [0x08, 0x00, 0x33, 0x9b, 0x00, 0x01, 0x00, 0x01, 0x61, 0x62, 0x63]) } ∧
    responseOf (exec (.icmpEncodeFill ⟨0, 0, 0x1234, [0, 0, 0, 0]⟩) s0) =
      some { status := .ok, result := some (.bytes [0, 0, 0xff, 0xff, 0, 0, 0, 0]) } := by decide

/-! ### TCP -/

/-- L2.T10 and L2.T11: data_offset below 5, and past the end. -/
theorem test_tcpDecode_offsets :
    responseOf (exec (.tcpDecode (segS.set 12 0x40)) s0) = some { status := .ok, result := some (.tcp { hdrS with dataOffset := 4 }) } ∧
    responseOf (exec (.tcpDecode (segS.set 12 0xf0)) s0) = some { status := .truncatedInput } := by decide

/-- L2.T15: options split at 24. -/
theorem test_tcpDecode_options :
    responseOf (exec (.tcpDecode [0x05, 0x39, 0x00, 0x50, 0x00, 0x00, 0x00, 0x64, 0x00, 0x00, 0x00, 0x00, 0x60, 0x02, 0x04, 0x00,
      0x7a, 0x35, 0x00, 0x00, 0x02, 0x04, 0x05, 0xb4]) s0) =
      some { status := .ok, result := some (.tcp { hdrT14 with checksum := 0x7a35 }) } := by decide

/-- L2.T2. -/
theorem test_tcpDecodeCheck :
    responseOf (exec (.tcpDecodeCheck segS 0xc0a80102 0x0a000004) s0) = some { status := .ok, result := some (.tcp hdrS) } := by decide

/-- L2.T4 and L2.T8: a wrong address, and untrimmed padding. -/
theorem test_tcpDecodeCheck_invalid :
    responseOf (exec (.tcpDecodeCheck segS 0xc0a80102 0x0a000005) s0) = some { status := .invalidChecksum } ∧
    responseOf (exec (.tcpDecodeCheck (segS ++ List.replicate 6 0) 0xc0a80102 0x0a000004) s0) = some { status := .invalidChecksum } := by
  decide

/-- L2.T7: a decoded reserved bit is not written back. -/
theorem test_tcpEncode :
    responseOf (exec (.tcpEncode (tcpParse (segS.set 12 0x51) 20)) s0) = some { status := .ok, result := some (.bytes segS) } := by decide

/-- L2.T13: the payload is covered. -/
theorem test_tcpEncodeFill :
    responseOf (exec (.tcpEncodeFill ⟨1337, 33996, 1, 1825363490, 5, 0x18, 29200, 0, 0, [], [0x68, 0x69]⟩ 0x0a000004 0xc0a80102) s0) =
      some {
        status := .ok
        result := some (.bytes [0x05, 0x39, 0x84, 0xcc, 0x00, 0x00, 0x00, 0x01, 0x6c, 0xcc, 0xd6, 0x22, 0x50, 0x18, 0x72, 0x10,
          0x3c, 0xad, 0x00, 0x00, 0x68, 0x69]) } := by decide

/-- L2.T14: the options are covered. -/
theorem test_tcpEncodeFill_options :
    responseOf (exec (.tcpEncodeFill hdrT14 0x0a000004 0x0a000001) s0) = some {
      status := .ok
      result := some (.bytes [0x05, 0x39, 0x00, 0x50, 0x00, 0x00, 0x00, 0x64, 0x00, 0x00, 0x00, 0x00, 0x60, 0x02, 0x04, 0x00,
        0x7a, 0x35, 0x00, 0x00, 0x02, 0x04, 0x05, 0xb4]) } := by decide

/-! ### The ARP table -/

/-- L2.A10 and L2.A11: a miss, also where only another protocol type has the address. -/
theorem test_arpLookup :
    responseOf (exec (.arpLookup 0x0a000001) s0) = some { status := .unresolvedAddress } ∧
    responseOf (exec (.arpLookup 0x0a000001) s2) = some { status := .unresolvedAddress } := by decide

/-- The last step of the example of R121: a hit. -/
theorem test_arpLookup_hit :
    responseOf (exec (.arpLookup 0x0a000001) s1) = some { status := .ok, result := some (.mac 0x525400aabbcc) } := by decide

/-- L3.P4 step 1: a miss leaves the table empty. -/
theorem test_arpUpdate_miss :
    exec (.arpUpdate 0x0800 0x0a000001 0x525400123456) s0 = .next { s0 with response := some { status := .ok, matched := some false } } := by
  rfl

/-- L3.P4 step 4: a hit overwrites. -/
theorem test_arpUpdate_hit :
    exec (.arpUpdate 0x0800 0x0a000001 0x525400123456) s1 = .next { s1 with
      response := some { status := .ok, matched := some true }, arpt := [⟨⟨0x0800, 0x0a000001⟩, 0x525400123456⟩] } := by
  rfl

/-- L2.A12, at ARP_CAPACITY = some 1: the only key is the victim, whatever the draw. -/
theorem test_arpInsert_evicts :
    arptPut (some 1) 7 s1.arpt ⟨0x0800, 0x0a000002⟩ 0x525400123456 = [⟨⟨0x0800, 0x0a000002⟩, 0x525400123456⟩] := by decide

/-- L3.P4 step 3: an insert answers OK with no flag. -/
theorem test_arpInsert : responseOf (exec (.arpInsert 0x0800 0x0a000001 0x525400123456) s0) = some { status := .ok } := by decide

/-- L2.A13, at ARP_CAPACITY = some 1: overwriting never evicts. -/
theorem test_arpMerge_overwrites :
    arptPut (some 1) 0 s1.arpt ⟨0x0800, 0x0a000001⟩ 0x525400123456 = [⟨⟨0x0800, 0x0a000001⟩, 0x525400123456⟩] := by decide

/-- L3.P4 steps 6 and 7: `matched` is the presence before the command. -/
theorem test_arpMerge :
    responseOf (exec (.arpMerge 0x0800 0x0a000002 0x525400123456) s1) = some { status := .ok, matched := some false } ∧
    responseOf (exec (.arpMerge 0x0800 0x0a000001 0x525400123456) s1) = some { status := .ok, matched := some true } := by decide

/-- L2.A2, L2.A3, L2.A4, L2.A5 and L2.A6. -/
theorem test_arpProcess :
    responseOf (exec (.arpProcess (req ++ List.replicate 18 0)) s0) =
      some { status := .ok, result := some (.reply (some replyA1)), supported := some true, matched := some false } ∧
    responseOf (exec (.arpProcess inA3) s1) =
      some { status := .ok, result := some (.reply none), supported := some true, matched := some true } ∧
    responseOf (exec (.arpProcess (req.set 15 0x06)) s0) =
      some { status := .unsupportedLayer, supported := some false, matched := some false } ∧
    responseOf (exec (.arpProcess (req.set 13 0x00)) s0) = some { status := .unhandledEthertype } ∧
    responseOf (exec (.arpProcess (req.take 41)) s0) = some { status := .truncatedInput } := by decide

/-- L2.A8 and L2.A9: a request for another host, without and with ARP_TARGET_CHECK. -/
theorem test_arpProcess_target :
    arpAnswers false 0x0a000004 ⟨1, 0x0800, 6, 4, 1, []⟩ ⟨0x525400123456, 0x0a000001, 0, 0x0a000009⟩ = true ∧
    arpAnswers true 0x0a000004 ⟨1, 0x0800, 6, 4, 1, []⟩ ⟨0x525400123456, 0x0a000001, 0, 0x0a000009⟩ = false := by decide

/-! ### Witnesses: for each obligation with hypotheses, values that meet them, clause by clause, at the boundaries -/

/-- A string of one byte more than BUF_LEN is refused by every byte-string clause; one of BUF_LEN bytes meets the other clause. -/
theorem witness_operandClauses :
    Config.bufLen < (tooLong 0).length ∧ (full 0).length ≤ Config.bufLen := by
  simp [full_length, tooLong_length]

/-- The same for what an encoder with a fixed part of `n` bytes returns. -/
theorem witness_resultClauses (n : Nat) (h : n ≤ 20) :
    Config.bufLen < n + (tooLong n).length ∧ n + (full n).length ≤ Config.bufLen := by
  have := le_bufLen
  simp only [full_length, tooLong_length]
  omega

theorem witness_DecodeAndEncodeAgree :
    decode ⟨0x01, {}⟩ = .ok (.csumSum16 [] 0) ∧ decode ⟨0x44, { b := req }⟩ = .ok (.arpProcess req) := ⟨rfl, rfl⟩

theorem witness_StepRunsTheDecodedCommand :
    ∃ (s : State) (c : Command) (i : Instr), s.resetInput = false ∧ s.command = some c ∧ decode c = .ok i :=
  ⟨present ⟨0x44, { b := req }⟩ s1, ⟨0x44, { b := req }⟩, .arpProcess req, rfl, rfl, rfl⟩

/-- Reserved codes at the edges of the map's gaps, and the least and greatest `fam` of the last clause. -/
theorem witness_ReservedCodesAreIllegalCommands :
    (present ⟨0x05, {}⟩ s1).resetInput = false ∧ (present ⟨0x05, {}⟩ s1).command = some ⟨0x05, {}⟩ ∧
    (∀ op ∈ [0x00#8, 0x05, 0x0f, 0x16, 0x1f, 0x23, 0x27, 0x2f, 0x34, 0x3f, 0x45, 0x4f, 0x50, 0xff], op.toNat ∉
      [0x01, 0x02, 0x03, 0x04, 0x10, 0x11, 0x12, 0x13, 0x14, 0x15, 0x20, 0x21, 0x22, 0x24, 0x25, 0x26,
        0x30, 0x31, 0x32, 0x33, 0x40, 0x41, 0x42, 0x43, 0x44]) ∧
    5 ≤ ((0x50#8).extractLsb' 4 4).toNat ∧ 5 ≤ ((0xff#8).extractLsb' 4 4).toNat := by decide

/-- Its two clauses at the boundary: byte strings of BUF_LEN bytes, and one of BUF_LEN + 1 on the byte-string port or in a
record. -/
theorem witness_ReservedCodesAreIllegalCommands_operands :
    (∀ b ∈ portBytes { b := full 0, icmp := ⟨0, 0, 0, full 0⟩ }, b.length ≤ Config.bufLen) ∧
    (∃ b ∈ portBytes { b := tooLong 0 }, Config.bufLen < b.length) ∧
    (∃ b ∈ portBytes { icmp := ⟨0, 0, 0, tooLong 0⟩ }, Config.bufLen < b.length) := by
  simp [portBytes, full_length, tooLong_length]

theorem witness_FoldIsTheEndAroundCarryLoop :
    0x10000 >>> 16 ≠ 0 ∧ 0xFFFF >>> 16 = 0 ∧ 0 < 1 ∧ fold 0x10000 = 1 ∧ fold 0xFFFF = 0xFFFF ∧ fold 0x1FFFE = 0xFFFF := by decide

/-- A pair of bytes, and the odd last byte. -/
theorem witness_WordsPadAnOddLastByte :
    ([1, 2, 3] : Bytes)[2 * 0]? = some 1 ∧ ([1, 2, 3] : Bytes)[2 * 0 + 1]? = some 2 ∧
    ([1, 2, 3] : Bytes)[2 * 1]? = some 3 ∧ 2 * 1 + 1 = ([1, 2, 3] : Bytes).length := by decide

/-- The field at the very end of the string. -/
theorem witness_FillAlwaysValidates : 2 % 2 = 0 ∧ 2 + 2 ≤ ([1, 2, 3, 4] : Bytes).length := by decide

/-- A string of each kind: the rest sums to 0xFFFF, and it does not. -/
theorem witness_OnlyNegativeZeroHasTwoFieldValues :
    2 % 2 = 0 ∧ 2 + 2 ≤ ([0xff, 0xff, 1, 2] : Bytes).length ∧ sum16 (memWrite16 [0xff, 0xff, 1, 2] 2 0) 0 = 0xFFFF ∧
    sum16 (memWrite16 [1, 2, 3, 4] 2 0) 0 ≠ 0xFFFF := by decide

/-- L2.C11, L1.3 and L1.4, with the last bit of each. -/
theorem witness_SingleBitFlipsAreDetected :
    (3 < ([0x00, 0x01, 0xff, 0xfe] : Bytes).length ∧ 7 < 8 ∧ csumOk [0x00, 0x01, 0xff, 0xfe] 0 = true) ∧
    (19 < 20 ∧ exec (.ipv4Decode l13) s0 = .next { s0 with
      command := none
      response := some { status := .ok, result := some (.ipv4 h13), supported := some true, kind := some .tcp } }) ∧
    (11 < m14.length ∧ exec (.icmpDecode m14) s0 = .next { s0 with
      command := none, response := some { status := .ok, result := some (.icmp r14) } }) := by
  refine ⟨by decide, ⟨by decide, rfl⟩, by decide, rfl⟩

theorem witness_CsumSum16ReturnsTheFoldedSum :
    Config.bufLen < (tooLong 0).length ∧ (full 0).length ≤ Config.bufLen := witness_operandClauses

theorem witness_CsumChecksumReturnsTheComplement :
    Config.bufLen < (tooLong 0).length ∧ (full 0).length ≤ Config.bufLen := witness_operandClauses

theorem witness_CsumVerifySetsTheValidFlag :
    Config.bufLen < (tooLong 0).length ∧ (full 0).length ≤ Config.bufLen := witness_operandClauses

theorem witness_EthDecodeSplitsTheFrame :
    Config.bufLen < (tooLong 0).length ∧ (req.take 13).length < 14 ∧ 14 + (full 14).length ≤ Config.bufLen :=
  ⟨witness_operandClauses.1, by decide, (witness_resultClauses 14 (by decide)).2⟩

theorem witness_EthEncodeJoinsTheFields :
    Config.bufLen < 14 + (tooLong 14).length ∧ 14 + (full 14).length ≤ Config.bufLen := witness_resultClauses 14 (by decide)

theorem witness_EthernetRoundTrip :
    14 + (full 14).length ≤ Config.bufLen ∧ 14 ≤ (full 0).length ∧ (full 0).length ≤ Config.bufLen := by
  have := le_bufLen
  simp only [full_length]
  omega

theorem witness_ArpDecodeSplitsTheMessage :
    Config.bufLen < (tooLong 0).length ∧ (req.take 7).length < 8 ∧ 8 + (full 8).length ≤ Config.bufLen :=
  ⟨witness_operandClauses.1, by decide, (witness_resultClauses 8 (by decide)).2⟩

theorem witness_ArpEncodeJoinsTheFields :
    Config.bufLen < 8 + (tooLong 8).length ∧ 8 + (full 8).length ≤ Config.bufLen := witness_resultClauses 8 (by decide)

theorem witness_ArpMessageRoundTrip :
    8 + (full 8).length ≤ Config.bufLen ∧ 8 ≤ (full 0).length ∧ (full 0).length ≤ Config.bufLen := by
  have := le_bufLen
  simp only [full_length]
  omega

theorem witness_Arpv4DecodeReadsTwentyBytes :
    Config.bufLen < (tooLong 0).length ∧ (req.take 19).length < 20 ∧ 20 + (full 20).length ≤ Config.bufLen :=
  ⟨witness_operandClauses.1, by decide, (witness_resultClauses 20 (by decide)).2⟩

theorem witness_Arpv4BodyRoundTrip : 20 ≤ (full 0).length ∧ (full 0).length ≤ Config.bufLen := by
  have := le_bufLen
  simp only [full_length]
  omega

theorem witness_Ipv4DecodeChecksAndSplits :
    Config.bufLen < (tooLong 0).length ∧ (l13.take 19).length < 20 ∧ 20 + (full 20).length ≤ Config.bufLen :=
  ⟨witness_operandClauses.1, by decide, (witness_resultClauses 20 (by decide)).2⟩

theorem witness_Ipv4EncodeIsVerbatim :
    Config.bufLen < 20 + h13.options.length + (tooLong 20).length ∧ 20 + h13.options.length + (full 20).length ≤ Config.bufLen := by
  simpa [h13] using witness_resultClauses 20 (by decide)

theorem witness_Ipv4EncodeFillWritesAFreshChecksum :
    Config.bufLen < 20 + h13.options.length + (tooLong 20).length ∧ 20 + h13.options.length + (full 20).length ≤ Config.bufLen := by
  simpa [h13] using witness_resultClauses 20 (by decide)

/-- L1.3 for the first three clauses; an ihl below 5 and an ihl of 15 are consistent too; L1.3 also meets the fourth. -/
theorem witness_Ipv4RoundTrip :
    ipv4Consistent h13 ∧ ipv4Consistent { h13 with ihl := 4 } ∧ ipv4Consistent { h13 with ihl := 15, options := List.replicate 40 0 } ∧
    sum16 (hdr20 h13) 0 = 0xFFFF ∧ 20 + h13.options.length + h13.payload.length ≤ Config.bufLen ∧
    exec (.ipv4Decode l13) s0 = .next { s0 with
      command := none
      response := some { status := .ok, result := some (.ipv4 h13), supported := some true, kind := some .tcp } } ∧
    ¬ (sum16 (memWrite16 (l13.take 20) 10 0) 0 = 0xFFFF ∧ h13.checksum = 0xFFFF) := by
  have := le_bufLen
  refine ⟨.inl (by decide), .inr (by decide), .inl (by decide), by decide, ?_, rfl, by decide⟩
  simp [h13]
  omega

theorem witness_IcmpDecodeChecksTheWholeMessage :
    Config.bufLen < (tooLong 0).length ∧ (m14.take 3).length < 4 ∧ 4 + (full 4).length ≤ Config.bufLen :=
  ⟨witness_operandClauses.1, by decide, (witness_resultClauses 4 (by decide)).2⟩

theorem witness_IcmpEncodeIsVerbatim :
    Config.bufLen < 4 + (tooLong 4).length ∧ 4 + (full 4).length ≤ Config.bufLen := witness_resultClauses 4 (by decide)

theorem witness_IcmpEncodeFillWritesAFreshChecksum :
    Config.bufLen < 4 + (tooLong 4).length ∧ 4 + (full 4).length ≤ Config.bufLen := witness_resultClauses 4 (by decide)

theorem witness_IcmpRoundTrip :
    4 + r14.data.length ≤ Config.bufLen ∧ sum16 ([r14.type, r14.code] ++ u16 r14.checksum ++ r14.data) 0 = 0xFFFF ∧
    exec (.icmpDecode m14) s0 = .next { s0 with command := none, response := some { status := .ok, result := some (.icmp r14) } } ∧
    ¬ (sum16 (memWrite16 m14 2 0) 0 = 0xFFFF ∧ r14.checksum = 0xFFFF) := by
  have := le_bufLen
  refine ⟨?_, by decide, rfl, by decide⟩
  simp [r14]
  omega

theorem witness_TcpDecodeSplitsUnchecked :
    Config.bufLen < (tooLong 0).length ∧ (segS.take 19).length < 20 ∧ 20 + (full 20).length ≤ Config.bufLen :=
  ⟨witness_operandClauses.1, by decide, (witness_resultClauses 20 (by decide)).2⟩

/-- L2.T4 fails the checksum, L2.T2 passes it; the last string passes it with a header length past its end. -/
theorem witness_TcpDecodeCheckValidatesFirst :
    Config.bufLen < (tooLong 0).length ∧ 0xFFFF < (segment 0x10000).length ∧ (segS.take 19).length < 20 ∧
    (20 ≤ segS.length ∧ segS.length ≤ 0xFFFF ∧ segS.length ≤ Config.bufLen) ∧
    sum16 segS (BitVec.ofNat 32 (pseudo 0xc0a80102 0x0a000005 (BitVec.ofNat 16 segS.length)).toNat) ≠ 0xFFFF ∧
    sum16 segS (BitVec.ofNat 32 (pseudo 0xc0a80102 0x0a000004 (BitVec.ofNat 16 segS.length)).toNat) = 0xFFFF ∧
    (segS.getD 12 0).toNat / 16 * 4 ≤ segS.length ∧
    (sum16 (fill (segS.set 12 0xf0) 16 (tcpCarry 1 2 20))
        (BitVec.ofNat 32 (pseudo 1 2 (BitVec.ofNat 16 (fill (segS.set 12 0xf0) 16 (tcpCarry 1 2 20)).length)).toNat) = 0xFFFF ∧
      (fill (segS.set 12 0xf0) 16 (tcpCarry 1 2 20)).length
        < ((fill (segS.set 12 0xf0) 16 (tcpCarry 1 2 20)).getD 12 0).toNat / 16 * 4) := by
  have := le_bufLen
  refine ⟨witness_operandClauses.1, by rw [segment_length]; omega, by decide, ⟨by decide, by decide, ?_⟩, by decide, by decide,
    by decide, by decide, by decide⟩
  simp [segS]
  omega

/-- L2.T2, with the last bit of the segment and of an address. -/
theorem witness_TcpCheckDetectsSingleBitFlips :
    exec (.tcpDecodeCheck segS 0xc0a80102 0x0a000004) s0 = .next { s0 with
      command := none, response := some { status := .ok, result := some (.tcp hdrS) } } ∧
    19 < segS.length ∧ 7 < 8 ∧ 31 < 32 := ⟨rfl, by decide, by decide, by decide⟩

theorem witness_TcpEncodeIsVerbatim :
    Config.bufLen < 20 + hdrS.options.length + (tooLong 20).length ∧ 20 + hdrS.options.length + (full 20).length ≤ Config.bufLen := by
  simpa [hdrS] using witness_resultClauses 20 (by decide)

/-- The longest segment with a length word is 0xFFFF bytes; the next one has none. -/
theorem witness_TcpEncodeFillWritesAFreshChecksum :
    Config.bufLen < 20 + hdrS.options.length + (tooLong 20).length ∧
    0xFFFF < 20 + hdrS.options.length + (segment 0xFFEC).length ∧
    20 + hdrS.options.length + (segment 0xFFEB).length ≤ 0xFFFF ∧
    (20 + hdrS.options.length + hdrS.payload.length ≤ Config.bufLen ∧ 20 + hdrS.options.length + hdrS.payload.length ≤ 0xFFFF) := by
  have := le_bufLen
  refine ⟨witness_TcpEncodeIsVerbatim.1, ?_, ?_, ?_, by decide⟩ <;> simp only [hdrS, List.length_nil, segment_length] <;> omega

/-- S, a data_offset below 5 and one of 15; S decodes, and its reserved nibble is 0; L2.T7's bytes decode with a nibble of 1. -/
theorem witness_TcpRoundTrip :
    tcpConsistent hdrS ∧ tcpConsistent { hdrS with dataOffset := 4 } ∧
    tcpConsistent { hdrS with dataOffset := 15, options := List.replicate 40 0 } ∧
    20 + hdrS.options.length + hdrS.payload.length ≤ Config.bufLen ∧ 20 + hdrS.options.length + hdrS.payload.length ≤ 0xFFFF ∧
    exec (.tcpDecode segS) s0 = .next { s0 with command := none, response := some { status := .ok, result := some (.tcp hdrS) } } ∧
    (segS.getD 12 0).extractLsb' 0 4 = 0#4 ∧
    exec (.tcpDecode (segS.set 12 0x51)) s0 = .next { s0 with
      command := none, response := some { status := .ok, result := some (.tcp hdrS) } } := by
  have := le_bufLen
  refine ⟨.inl (by decide), .inr (by decide), .inl (by decide), ?_, by decide, rfl, by decide, rfl⟩
  simp [hdrS]
  omega

/-- A present key, room below the capacity, and a full table of one and of two entries. -/
theorem witness_PutWritesItsKeyAndEvictsAtMostOne :
    ArpTable.wf s1.arpt ∧ (∀ n ∈ some 1, 1 ≤ n) ∧ arptGet s1.arpt ⟨0x0800, 0x0a000001⟩ ≠ none ∧ (∀ n ∈ some 2, s1.arpt.length < n) ∧
    (arptGet s1.arpt ⟨0x0800, 0x0a000002⟩ = none ∧ ∃ n ∈ some 1, n ≤ s1.arpt.length) := by
  refine ⟨by decide, by simp, by decide, by simp [s1], by decide, 1, rfl, by decide⟩

theorem witness_ArpLookupReadsIpv4Entries :
    arptGet s1.arpt ⟨0x0800, 0x0a000001⟩ = some 0x525400aabbcc ∧ arptGet s2.arpt ⟨0x0800, 0x0a000001⟩ = none := by decide

theorem witness_ArpUpdateOverwritesOnlyOnAHit :
    arptGet s0.arpt ⟨0x0800, 0x0a000001⟩ = none ∧ arptGet s1.arpt ⟨0x0800, 0x0a000001⟩ ≠ none ∧ ArpTable.wf s1.arpt := by decide

/-- Every length at which a check of R124 turns: 13, 14 + 27 and 14 + 28 bytes, and a padded frame. -/
theorem witness_ArpProcessMergesAndReplies :
    Config.bufLen < (tooLong 0).length ∧ (req.take 13).length < 14 ∧
    ((req.take 12).length = 12 ∧ 14 + (full 14).length ≤ Config.bufLen ∧ 0x0805#16 ≠ 0x0806#16) ∧
    (14 + ((req.drop 14).take 27).length ≤ Config.bufLen ∧ ((req.drop 14).take 27).length < 28) ∧
    (42 + (full 42).length ≤ Config.bufLen ∧ 42 + (List.replicate 18 (0 : Byte)).length ≤ Config.bufLen ∧
      (arpParse (req.drop 14)).payload = u48 0x525400123456 ++ u32 0x0a000001 ++ u48 0 ++ u32 0x0a000004 ++ []) := by
  have := le_bufLen
  refine ⟨witness_operandClauses.1, by decide, ⟨by decide, (witness_resultClauses 14 (by decide)).2, by decide⟩, ⟨?_, by decide⟩, ?_, ?_,
    by decide⟩
  · have h : ((req.drop 14).take 27).length = 27 := by decide
    omega
  · rw [full_length]
    omega
  · rw [List.length_replicate]
    omega

theorem witness_UpdateAfterInsertIsWhatLookupReads :
    arptGet s0.arpt ⟨0x0800, 0x0a000001⟩ = none ∧ (0x0800#16 : BitVec 16) = 0x0800#16 := by decide

/-- REQ in the test configuration, padded to BUF_LEN. -/
theorem witness_ReplyDecodesToTheHostIdentity :
    (req.take 12).length = 12 ∧ 42 + (full 42).length ≤ Config.bufLen ∧
    (⟨0x525400123456, 0x0a000001, 0, 0x0a000004⟩ : ArpIPv4Body).targetIp = s0.hostIp := by
  have := le_bufLen
  refine ⟨by decide, ?_, by decide⟩
  rw [full_length]
  omega

/-- L3.P4 step 4: an update changes the MAC of a present key. -/
theorem witness_EntriesLeaveOnlyByEviction :
    ∃ t : State, exec (.arpUpdate 0x0800 0x0a000001 0x525400123456) s1 = .next t ∧
      arptGet s1.arpt ⟨0x0800, 0x0a000001⟩ = some 0x525400aabbcc ∧ ArpTable.wf s1.arpt ∧
      arptGet t.arpt ⟨0x0800, 0x0a000001⟩ = some 0x525400123456 ∧ (0x525400123456#48 : Mac) ≠ 0x525400aabbcc#48 :=
  ⟨_, rfl, by decide, by decide, by decide, by decide⟩

/-- L1.3 is well-formed; a segment of 0x10000 bytes is not, whatever BUF_LEN is. -/
theorem witness_CodecAndChecksumCommandsAreStateless :
    stateless (.ipv4Decode l13) = true ∧ (Instr.ipv4Decode l13).wellFormed = true ∧
    stateless (.tcpDecodeCheck (segment 0x10000) 0 0) = true ∧
    (Instr.tcpDecodeCheck (segment 0x10000) 0 0).wellFormed = false := by
  have := le_bufLen
  refine ⟨rfl, ?_, rfl, test_wellFormed_segment.1⟩
  simp [Instr.wellFormed, fitsBuffer, l13]
  omega

theorem witness_HostIdentityIsReadOnly :
    ∃ t : State, exec (.arpMerge 0x0800 0x0a000002 0x525400123456) s1 = .next t ∧
      ∀ b : Bytes, Instr.arpMerge 0x0800 0x0a000002 0x525400123456 ≠ .arpProcess b := ⟨_, rfl, by simp⟩

/-- L2.A10 for the first clause, L2.A4 for the second. -/
theorem witness_ErrorStatusesLeaveTheTable :
    (∃ (t : State) (r : Response), exec (.arpLookup 0x0a000001) s0 = .next t ∧ t.response = some r ∧ r.status ≠ .ok ∧
      r.status ≠ .unsupportedLayer) ∧
    (∃ (t : State) (r : Response), exec (.arpProcess (req.set 15 0x06)) s0 = .next t ∧ t.response = some r ∧ r.status ≠ .ok ∧
      r.status = .unsupportedLayer) :=
  ⟨⟨_, _, rfl, rfl, by decide, by decide⟩, _, _, rfl, rfl, by decide, by decide⟩

theorem witness_StatusesAreThoseOfTheTable : ∃ t : State, exec (.ipv4Decode (0x4f :: l13.tail)) s0 = .next t := ⟨_, rfl⟩

/-- An OK response with flags, an error with none, and UNSUPPORTED_LAYER. -/
theorem witness_FlagsAreWrittenByTheirCommands :
    (∃ (t : State) (r : Response), exec (.ipv4Decode l13) s0 = .next t ∧ t.response = some r ∧ r.status = .ok) ∧
    (∃ (t : State) (r : Response), exec (.arpLookup 0x0a000001) s0 = .next t ∧ t.response = some r ∧ r.status ≠ .ok ∧
      r.status ≠ .unsupportedLayer) ∧
    (∃ (t : State) (r : Response), exec (.arpProcess (req.set 15 0x06)) s0 = .next t ∧ t.response = some r ∧
      r.status = .unsupportedLayer) :=
  ⟨⟨_, _, rfl, rfl, by decide⟩, ⟨_, _, rfl, rfl, by decide, by decide⟩, _, _, rfl, rfl, by decide⟩

theorem witness_RefusalIsExactlyTheInadmissible :
    (Instr.ethDecode (full 0)).wellFormed = true ∧ (Instr.ethDecode (tooLong 0)).wellFormed = false ∧
    (Instr.tcpDecodeCheck (segment 0x10000) 0 0).wellFormed = false :=
  ⟨test_wellFormed_boundary.1, test_wellFormed_operand _ (by simp), test_wellFormed_segment.1⟩

/-- Its hypothesis, and each of its three outcomes. -/
theorem witness_EveryPresentedCommandIsAnswered :
    s1.resetInput = false ∧ (∃ t, step (present ⟨0x40, { ip := 0x0a000001 }⟩ s1) = .next t) ∧
    (∃ i, decode ⟨0x10, { b := tooLong 0 }⟩ = .ok i ∧ i.wellFormed = false) ∧
    step (present ⟨0x45, { b := tooLong 0 }⟩ s1) = .refused .oversize :=
  ⟨rfl, ⟨_, rfl⟩, ⟨_, rfl, test_wellFormed_operand _ (by simp)⟩, test_reserved_oversize⟩

/-- A reserved code and a lookup, then an update. -/
theorem witness_ResponsesComeInCommandOrder :
    s1.resetInput = false ∧
    (∃ (t u : State) (rs qs : List Response), serve [⟨0xff, {}⟩, ⟨0x40, { ip := 0x0a000001 }⟩] s1 = .next (t, rs) ∧
      serve [⟨0x41, { ptype := 0x0800, ip := 0x0a000001, mac := 1 }⟩] t = .next (u, qs)) ∧
    (∃ (t : State) (r : Response), step (present ⟨0x40, { ip := 0x0a000001 }⟩ s1) = .next t ∧ t.response = some r) :=
  ⟨rfl, ⟨_, _, _, _, rfl, rfl⟩, _, _, rfl, rfl⟩

/-- Reset with a command in flight and a table that holds an entry. -/
theorem witness_ResetEmptiesTheBlock : (assertReset (present ⟨0x40, {}⟩ s1)).resetInput = true := rfl

theorem witness_IdleBlockKeepsItsState : s1.resetInput = false ∧ s1.command = none := ⟨rfl, rfl⟩

/-- A good state with an entry and a command on the port, and its step. -/
theorem witness_EveryStepKeepsTheBlockGood :
    ∃ s t : State, good s ∧ s.arpt ≠ [] ∧ step s = .next t :=
  ⟨present ⟨0x41, { ptype := 0x0800, ip := 0x0a000001, mac := 1 }⟩ { State.reset with arpt := s1.arpt }, _,
    ⟨by decide, fun n hn => by
      simp only [Config.arpCapacity, Option.mem_def, Option.map_eq_some_iff] at hn
      obtain ⟨a, -, rfl⟩ := hn
      simp [s1], rfl, rfl, fun r hr => nomatch hr⟩, by decide, rfl⟩

end Sys2Proof.Tests
end

/-!
What a command does, said once: `exec_next` gives the next state of every command that answers as its response
(`responseTo`) over its effect on the ARP table (`tableEffect`), and `responseTo_checkedThen` splits the response into a failed
check and the accepted one. The invariant and the frame statements are read off these.
-/

namespace Sys2Proof.Proofs

open Sys2Proof.Machine Sys2Proof.Safety

/-! ### What a command answers -/

/-- The response of a command whose checks all pass. The message, the body and the MAC it names are those the checks found. -/
def accepted (i : Instr) (s : State) : Response :=
  match i with
  | .csumSum16 b carry => okWith (.value32 ((sum16 b carry).setWidth 32))
  | .csumChecksum b carry => okWith (.value16 (checksum b carry))
  | .csumVerify b carry => { okEmpty with valid := some (validFlag b carry) }
  | .csumPseudo src dst seglen => okWith (.value16 (pseudo src dst seglen))
  | .ethDecode b => { okWith (.ethernet (ethParse b)) with kind := some (ethKind (ethParse b).ethertype) }
  | .ethEncode f => okWith (.bytes (ethEncode f))
  | .arpDecode b => { okWith (.arp (arpParse b)) with supported := some (arpSupported (arpParse b)) }
  | .arpEncode m => okWith (.bytes (arpEncode m))
  | .arpv4Decode b => okWith (.arpv4 (arpv4Parse b))
  | .arpv4Encode a => okWith (.bytes (arpv4Encode a))
  | .ipv4Decode b => ipv4Accept (ipv4Parse b (ipv4HeaderLength b))
  | .ipv4Encode h => okWith (.bytes (ipv4Encode h))
  | .ipv4EncodeFill h => okWith (.bytes (ipv4EncodeFill h))
  | .icmpDecode b => okWith (.icmp (icmpParse b))
  | .icmpEncode h => okWith (.bytes (icmpEncode h))
  | .icmpEncodeFill h => okWith (.bytes (icmpEncodeFill h))
  | .tcpDecode b => okWith (.tcp (tcpParse b (tcpHeaderLength b)))
  | .tcpDecodeCheck b _ _ => okWith (.tcp (tcpParse b (tcpHeaderLength b)))
  | .tcpEncode h => okWith (.bytes (tcpEncode h))
  | .tcpEncodeFill h src dst => okWith (.bytes (tcpEncodeFill h src dst))
  | .arpLookup ip => okWith (.mac ((arptGet s.arpt ⟨0x0800#16, ip⟩).getD 0#48))
  | .arpUpdate ptype ip _ => { okEmpty with matched := some (arptHas s.arpt ⟨ptype, ip⟩) }
  | .arpInsert _ _ _ => okEmpty
  | .arpMerge ptype ip _ => { okEmpty with matched := some (arptHas s.arpt ⟨ptype, ip⟩) }
  | .arpProcess b =>
    let m := arpParse (b.drop 14)
    let a := arpv4Parse m.payload
    arpProcessed Config.arpTargetCheck s.hostMac s.hostIp m a (arptHas s.arpt (senderKey m a))

/-- The response of a command that is not refused: the checks of the commands that make some, then `accepted`. -/
def responseTo (i : Instr) (s : State) : Response :=
  match i with
  | .ethDecode b => ethDecode b
  | .arpDecode b => arpDecode b
  | .arpv4Decode b => arpv4Decode b
  | .ipv4Decode b => ipv4Decode b
  | .icmpDecode b => icmpDecode b
  | .tcpDecode b => tcpDecode b
  | .tcpDecodeCheck b src dst => if b.length < 20 then raise .truncatedInput else tcpVerified b src dst
  | .arpLookup ip =>
    if arptGet s.arpt ⟨0x0800#16, ip⟩ = none then raise .unresolvedAddress else accepted (.arpLookup ip) s
  | .arpProcess b =>
    match arpInbound b with
    | .error st => raise st
    | .ok _ => accepted (.arpProcess b) s
  | i => accepted i s

/-- The state after a command's writes to the ARP table (R23), before it answers. -/
def tableEffect (i : Instr) (s : State) : State :=
  match i with
  | .arpUpdate ptype ip mac =>
    if arptHas s.arpt ⟨ptype, ip⟩ then overwriteEntry ⟨ptype, ip⟩ mac s else s
  | .arpInsert ptype ip mac => putEntry ⟨ptype, ip⟩ mac s
  | .arpMerge ptype ip mac => putEntry ⟨ptype, ip⟩ mac s
  | .arpProcess b =>
    match arpInbound b with
    | .error _ => s
    | .ok (m, a) => putEntry (senderKey m a) a.senderMac s
  | _ => s

/-! ### Lengths of images (R34) -/

@[simp] theorem ethEncode_length (f : EthernetFrame) : (ethEncode f).length = 14 + f.payload.length := by
  simp +arith [ethEncode]

@[simp] theorem arpEncode_length (m : ArpMessage) : (arpEncode m).length = 8 + m.payload.length := by
  simp +arith [arpEncode]

@[simp] theorem arpv4Encode_length (a : ArpIPv4Body) : (arpv4Encode a).length = 20 := by simp [arpv4Encode]

@[simp] theorem arpReplyFrame_length (mac : Mac) (ip : Ip) (m : ArpMessage) (a : ArpIPv4Body) :
    (arpReplyFrame mac ip m a).length = 42 := by
  simp [arpReplyFrame]

@[simp] theorem hdr20_length (h : IPv4Header) : (hdr20 h).length = 20 := by simp [hdr20]

@[simp] theorem tcp20_length (h : TcpHeader) : (tcp20 h).length = 20 := by simp [tcp20]

/-- Filling in a checksum changes no length. -/
theorem fill_length {e : Bytes} {o : Nat} (h : o + 2 ≤ e.length) (c : BitVec 32) : (fill e o c).length = e.length := by
  have hz : (memWrite16 e o 0#16).length = e.length := memWrite16_length e o _ h
  rw [fill, memWrite16_length _ _ _ (by omega), hz]

@[simp] theorem ipv4Encode_length (h : IPv4Header) :
    (ipv4Encode h).length = 20 + h.options.length + h.payload.length := by
  simp +arith [ipv4Encode]

@[simp] theorem ipv4EncodeFill_length (h : IPv4Header) :
    (ipv4EncodeFill h).length = 20 + h.options.length + h.payload.length := by
  simp +arith [ipv4EncodeFill, fill_length]

@[simp] theorem icmpEncode_length (h : Icmpv4Header) : (icmpEncode h).length = 4 + h.data.length := by
  simp +arith [icmpEncode]

@[simp] theorem icmpEncodeFill_length (h : Icmpv4Header) : (icmpEncodeFill h).length = 4 + h.data.length := by
  rw [icmpEncodeFill, fill_length (by simp)]
  simp +arith

@[simp] theorem tcpEncode_length (h : TcpHeader) : (tcpEncode h).length = 20 + h.options.length + h.payload.length := by
  simp +arith [tcpEncode]

@[simp] theorem tcpEncodeFill_length (h : TcpHeader) (src dst : Ip) :
    (tcpEncodeFill h src dst).length = 20 + h.options.length + h.payload.length := by
  rw [tcpEncodeFill, fill_length (by simp; omega), tcpEncode_length]

theorem slice_length_le (b : Bytes) (x y : Nat) : (slice b x y).length ≤ b.length := by
  simp [slice]

/-! ### What a command does -/

/-- The checks 1 to 4 of R124 fail with one of two statuses, or give the frame's message and body. -/
theorem arpInbound_cases (b : Bytes) :
    (∃ st, (st = .truncatedInput ∨ st = .unhandledEthertype) ∧ arpInbound b = .error st) ∨
      arpInbound b = .ok (arpParse (b.drop 14), arpv4Parse (arpParse (b.drop 14)).payload) := by
  unfold arpInbound
  split_ifs <;> simp

/-- A command answers exactly in the admitted domain, and then with its response over its effect on the table. -/
theorem exec_next {i : Instr} {s t : State} :
    exec i s = .next t ↔ i.wellFormed = true ∧ t = answer (responseTo i s) (tableEffect i s) := by
  cases i with
  | tcpDecodeCheck b src dst =>
    simp only [exec, execTcpDecodeCheck, admitLength_next, responseTo, tableEffect, Instr.wellFormed, fitsBuffer, fitsSegment,
      Bool.and_eq_true, decide_eq_true_eq, and_assoc]
    split
    · have : b.length ≤ 0xFFFF := by omega
      simp [respond_next, this]
    · simp [respond_next, admitSegment_next]
  | arpLookup ip =>
    simp only [exec, execArpLookup, responseTo, accepted, tableEffect, Instr.wellFormed, true_and]
    split <;> simp [respond_next, *]
  | arpUpdate ptype ip mac =>
    simp only [exec, execArpUpdate, responseTo, accepted, tableEffect, Instr.wellFormed, true_and]
    split <;> simp [respond_next, *]
  | arpProcess b =>
    simp only [exec, execArpProcess, admitLength_next, responseTo, accepted, tableEffect, Instr.wellFormed, fitsBuffer,
      decide_eq_true_eq]
    obtain ⟨st, -, h⟩ | h := arpInbound_cases b <;> simp [h, respond_next]
  | csumPseudo | arpInsert | arpMerge =>
    simp [exec, execCsumPseudo, execArpInsert, execArpMerge, respond_next, Instr.wellFormed, responseTo, accepted, tableEffect]
  | arpv4Encode a =>
    have hfits : 20 ≤ Config.bufLen := Nat.le_trans (by omega) le_bufLen
    simp [exec, execArpv4Encode, returnBytes_next, hfits, Instr.wellFormed, responseTo, accepted, tableEffect]
  | tcpEncodeFill =>
    simp [exec, execTcpEncodeFill, admitLength_next, admitSegment_next, respond_next, Instr.wellFormed, fitsBuffer,
      fitsSegment, responseTo, accepted, tableEffect, and_assoc]
  | csumSum16 | csumChecksum | csumVerify | ethDecode | arpDecode | arpv4Decode | ipv4Decode | icmpDecode | tcpDecode =>
    simp [exec, execCsumSum16, execCsumChecksum, execCsumVerify, execEthDecode, execArpDecode, execArpv4Decode, execIpv4Decode,
      execIcmpDecode, execTcpDecode, admitLength_next, respond_next, Instr.wellFormed, fitsBuffer, responseTo, accepted,
      tableEffect]
  | ethEncode | arpEncode | ipv4Encode | ipv4EncodeFill | icmpEncode | icmpEncodeFill | tcpEncode =>
    simp [exec, execEthEncode, execArpEncode, execIpv4Encode, execIpv4EncodeFill, execIcmpEncode, execIcmpEncodeFill,
      execTcpEncode, returnBytes_next, Instr.wellFormed, fitsBuffer, responseTo, accepted, tableEffect]

/-! ### A failed check, or the accepted response -/

/-- `r` is the error of a check that the command makes (R129), or it is `ok`. -/
def checkedThen (i : Instr) (r ok : Response) : Prop :=
  (∃ st ∈ mayReturn i, st ≠ .ok ∧ st ≠ .unsupportedLayer ∧ r = raise st) ∨ r = ok

section
variable {i : Instr} {r ok : Response} {st : Status}

theorem checkedThen_raise (hst : st ∈ mayReturn i) (hok : st ≠ .ok := by decide)
    (hul : st ≠ .unsupportedLayer := by decide) : checkedThen i (raise st) ok :=
  .inl ⟨st, hst, hok, hul, rfl⟩

theorem checkedThen_refl : checkedThen i ok ok := .inr rfl

/-- One more check in front of a command's checks. -/
theorem checkedThen_ite {p : Prop} [Decidable p] (hst : st ∈ mayReturn i) (hr : checkedThen i r ok)
    (hok : st ≠ .ok := by decide) (hul : st ≠ .unsupportedLayer := by decide) :
    checkedThen i (if p then raise st else r) ok := by
  split
  · exact checkedThen_raise hst hok hul
  · exact hr

end

/-- The check the TCP decoders make last (R112, R113). -/
theorem tcpSplit_checkedThen {i : Instr} (b : Bytes) (h : .truncatedInput ∈ mayReturn i) :
    checkedThen i (tcpSplit b) (okWith (.tcp (tcpParse b (tcpHeaderLength b)))) :=
  checkedThen_ite h checkedThen_refl

/-- A command's response is the error of one of its checks or the accepted one. -/
theorem responseTo_checkedThen (i : Instr) (s : State) : checkedThen i (responseTo i s) (accepted i s) := by
  cases i with
  | ethDecode | arpDecode | arpv4Decode => exact checkedThen_ite (by simp [mayReturn]) checkedThen_refl
  | ipv4Decode =>
    exact checkedThen_ite (by simp [mayReturn]) <| checkedThen_ite (by simp [mayReturn]) <|
      checkedThen_ite (by simp [mayReturn]) checkedThen_refl
  | icmpDecode => exact checkedThen_ite (by simp [mayReturn]) <| checkedThen_ite (by simp [mayReturn]) checkedThen_refl
  | tcpDecode => exact checkedThen_ite (by simp [mayReturn]) <| tcpSplit_checkedThen _ (by simp [mayReturn])
  | tcpDecodeCheck =>
    exact checkedThen_ite (by simp [mayReturn]) <| checkedThen_ite (by simp [mayReturn]) <|
      tcpSplit_checkedThen _ (by simp [mayReturn])
  | arpLookup => exact checkedThen_ite (by simp [mayReturn]) checkedThen_refl
  | arpProcess b =>
    simp only [responseTo]
    obtain ⟨st, rfl | rfl, h⟩ | h := arpInbound_cases b <;> rw [h]
    · exact checkedThen_raise (by simp [mayReturn])
    · exact checkedThen_raise (by simp [mayReturn])
    · exact checkedThen_refl
  | _ => exact checkedThen_refl

/-! ### The host identity -/

/-- Only ARP_PROCESS answers with the host identity (R25). -/
theorem responseTo_identity {i : Instr} (hi : ∀ b, i ≠ .arpProcess b) (s : State) (mac : Mac) (ip : Ip) :
    responseTo i { s with hostMac := mac, hostIp := ip } = responseTo i s := by
  cases i with
  | arpProcess b => exact absurd rfl (hi b)
  | _ => rfl

/-- No write to the table looks at the host identity. -/
theorem tableEffect_identity (i : Instr) (s : State) (mac : Mac) (ip : Ip) :
    tableEffect i { s with hostMac := mac, hostIp := ip } = { tableEffect i s with hostMac := mac, hostIp := ip } := by
  cases i with
  | arpUpdate => simp only [tableEffect]; split <;> rfl
  | arpProcess b => simp only [tableEffect]; split <;> rfl
  | _ => rfl

@[simp] theorem tableEffect_hostMac (i : Instr) (s : State) : (tableEffect i s).hostMac = s.hostMac := by
  simpa using congrArg State.hostMac (tableEffect_identity i s s.hostMac s.hostIp)

@[simp] theorem tableEffect_hostIp (i : Instr) (s : State) : (tableEffect i s).hostIp = s.hostIp := by
  simpa using congrArg State.hostIp (tableEffect_identity i s s.hostMac s.hostIp)

/-- Settles O50: a command's response and table effect are independent of the identity registers, ARP_PROCESS's apart. -/
theorem hostIdentityIsReadOnly : Obligations.HostIdentityIsReadOnly := by
  refine ⟨fun i s t h => ?_, fun i s t mac ip hi h => ?_, rfl, rfl⟩
  · obtain ⟨-, rfl⟩ := exec_next.1 h
    simp
  · obtain ⟨hwf, rfl⟩ := exec_next.1 h
    refine exec_next.2 ⟨hwf, ?_⟩
    rw [responseTo_identity hi s mac ip, tableEffect_identity i s mac ip]
    rfl

/-! ### The flags -/

/-- The flags of an OK response (R27). -/
def flagsOfOk (i : Instr) (r : Response) : Prop :=
  r.supported.isSome = writesSupported i ∧ r.kind.isSome = writesKind i ∧ r.matched.isSome = writesMatched i ∧
    r.valid.isSome = writesValid i

/-- UNSUPPORTED_LAYER comes with two flags (R129). -/
def flagsOfUnsupported (r : Response) : Prop :=
  r.status = .unsupportedLayer ∧ r.kind = none ∧ r.valid = none ∧ r.supported = some false ∧ r.matched.isSome = true

/-- ARP_PROCESS's response once the checks have passed (R124): a message of another kind, or OK with an optional frame. -/
theorem arpProcessed_cases (tc : Bool) (mac : Mac) (ip : Ip) (m : ArpMessage) (a : ArpIPv4Body) (hit : Bool) :
    arpProcessed tc mac ip m a hit = { raise .unsupportedLayer with supported := some false, matched := some hit } ∨
      ∃ frame, (∀ f ∈ frame, f = arpReplyFrame mac ip m a) ∧ arpProcessed tc mac ip m a hit =
        { okWith (.reply frame) with supported := some true, matched := some hit } := by
  unfold arpProcessed
  split_ifs
  · exact .inl rfl
  · exact .inr ⟨some (arpReplyFrame mac ip m a), by simp, rfl⟩
  · exact .inr ⟨none, by simp, rfl⟩

/-- An accepted response is OK with its command's flags, or UNSUPPORTED_LAYER. -/
theorem accepted_flags (i : Instr) (s : State) :
    (accepted i s).status = .ok ∧ flagsOfOk i (accepted i s) ∨ flagsOfUnsupported (accepted i s) := by
  cases i with
  | arpProcess b =>
    simp only [accepted]
    generalize arpParse (b.drop 14) = m
    obtain h | ⟨frame, -, h⟩ := arpProcessed_cases Config.arpTargetCheck s.hostMac s.hostIp m
      (arpv4Parse m.payload) (arptHas s.arpt (senderKey m (arpv4Parse m.payload)))
    · rw [h]; exact .inr ⟨rfl, rfl, rfl, rfl, rfl⟩
    · rw [h]; exact .inl ⟨rfl, rfl, rfl, rfl, rfl⟩
  | _ => exact .inl ⟨rfl, rfl, rfl, rfl, rfl⟩

/-- Settles O53: a failed check leaves every flag absent, and an accepted response has those of `accepted_flags`. -/
theorem flagsAreWrittenByTheirCommands : Obligations.FlagsAreWrittenByTheirCommands := by
  intro i s t r h hr
  obtain ⟨-, rfl⟩ := exec_next.1 h
  obtain rfl : responseTo i s = r := by simpa using hr
  obtain ⟨st, -, hok, hul, h⟩ | h := responseTo_checkedThen i s <;> rw [h]
  · exact ⟨fun hst => absurd hst hok, fun _ => ⟨rfl, rfl, fun _ => ⟨rfl, rfl⟩, fun hst => absurd hst hul⟩⟩
  · obtain ⟨hst, hf⟩ | ⟨hst, hk, hv, hs, hm⟩ := accepted_flags i s
    · exact ⟨fun _ => hf, fun hne => absurd hst hne⟩
    · exact ⟨by simp [hst], fun _ => ⟨hk, hv, fun hne => absurd hst hne, fun _ => ⟨hs, hm⟩⟩⟩

/-! ### The invariant -/

/-- An error the block may give: no byte string and no result (R129, R130). -/
theorem raise_responseOk {st : Status} (h : st ≠ .unhandledProtocol) : responseOk (raise st) :=
  ⟨by simp [raise], h, fun _ => rfl⟩

/-- No command may return UNHANDLED_PROTOCOL (R129). -/
theorem ne_unhandledProtocol_of_mem_mayReturn {i : Instr} {st : Status} (h : st ∈ mayReturn i) : st ≠ .unhandledProtocol := by
  rintro rfl
  cases i <;> simp [mayReturn] at h

/-- An OK response is one the block may give when its result's byte strings fit. -/
theorem responseOk_of_ok {r : Response} (hst : r.status = .ok)
    (hfit : ∀ x ∈ r.result, ∀ b ∈ resultBytes x, b.length ≤ Config.bufLen) : responseOk r :=
  ⟨hfit, by simp [hst], fun h => absurd hst h⟩

theorem arpProcessed_responseOk (tc : Bool) (mac : Mac) (ip : Ip) (m : ArpMessage) (a : ArpIPv4Body) (hit : Bool) :
    responseOk (arpProcessed tc mac ip m a hit) := by
  obtain h | ⟨frame, hf, h⟩ := arpProcessed_cases tc mac ip m a hit <;> rw [h]
  · exact ⟨by simp [raise], nofun, fun _ => rfl⟩
  · refine responseOk_of_ok rfl ?_
    have hfits : 42 ≤ Config.bufLen := Nat.le_trans (by omega) le_bufLen
    simp only [okWith, Option.mem_def, Option.some.injEq, forall_eq', resultBytes, Option.mem_toList]
    intro b hb
    rw [hf b hb, arpReplyFrame_length]
    exact hfits

/-- The options and the payload that a header decoder cuts out of its operand. -/
theorem optionsAndPayload_fit {b : Bytes} {n : Nat} (h : b.length ≤ n) (x y : Nat) :
    ∀ p ∈ [slice b x y, b.drop y], p.length ≤ n := by
  have hs := slice_length_le b x y
  simp only [List.mem_cons, List.not_mem_nil, or_false, forall_eq_or_imp, forall_eq, List.length_drop]
  omega

/-- Within the admitted domain every result fits BUF_LEN: a decoder's byte strings are parts of its operand, and an encoder's
result was measured (R34). -/
theorem accepted_responseOk {i : Instr} (h : i.wellFormed = true) (s : State) : responseOk (accepted i s) := by
  cases i with
  | arpProcess => exact arpProcessed_responseOk ..
  | csumSum16 | csumChecksum | csumVerify | csumPseudo | arpv4Decode | arpLookup | arpUpdate | arpInsert | arpMerge =>
    exact responseOk_of_ok rfl (by simp [accepted, okWith, okEmpty, resultBytes])
  | ethDecode | arpDecode | icmpDecode =>
    refine responseOk_of_ok rfl ?_
    simp only [Instr.wellFormed, fitsBuffer, decide_eq_true_eq] at h
    simpa [accepted, okWith, resultBytes, ethParse, arpParse, icmpParse] using Nat.le_add_right_of_le h
  | ipv4Decode b | tcpDecode b =>
    refine responseOk_of_ok rfl ?_
    rintro - ⟨⟩
    exact optionsAndPayload_fit (of_decide_eq_true h) 20 _
  | tcpDecodeCheck b =>
    refine responseOk_of_ok rfl ?_
    rintro - ⟨⟩
    exact optionsAndPayload_fit (of_decide_eq_true (Bool.and_eq_true_iff.1 h).1) 20 _
  | arpv4Encode =>
    have hfits : 20 ≤ Config.bufLen := Nat.le_trans (by omega) le_bufLen
    exact responseOk_of_ok rfl (by simp [accepted, okWith, resultBytes, hfits])
  | ethEncode | arpEncode | ipv4Encode | ipv4EncodeFill | icmpEncode | icmpEncodeFill | tcpEncode | tcpEncodeFill =>
    refine responseOk_of_ok rfl ?_
    simp only [Instr.wellFormed, fitsBuffer, Bool.and_eq_true, decide_eq_true_eq] at h
    simp [accepted, okWith, resultBytes, h]

theorem responseTo_responseOk {i : Instr} (h : i.wellFormed = true) (s : State) : responseOk (responseTo i s) := by
  obtain ⟨st, hst, -, -, hr⟩ | hr := responseTo_checkedThen i s <;> rw [hr]
  · exact raise_responseOk (ne_unhandledProtocol_of_mem_mayReturn hst)
  · exact accepted_responseOk h s

/-- ARP_CAPACITY is at least 1 (R8). -/
theorem arpCapacity_pos {n : Nat} (h : n ∈ Config.arpCapacity) : 0 < n := by
  simp only [Config.arpCapacity, Option.mem_def, Option.map_eq_some_iff] at h
  omega

theorem arptEvict_length {t : ArpTable} (h : 0 < t.length) (draw : Nat) : (arptEvict t draw).length = t.length - 1 :=
  List.length_eraseIdx_of_lt (Nat.mod_lt _ h)

/-- A set grows a table by one entry at most. -/
theorem arptSet_length_le {t : ArpTable} (h : ArpTable.wf t) (k : ArpKey) (m : Mac) :
    (arptSet t k m).length ≤ t.length + 1 := by
  rw [arptSet_length h]
  split <;> omega

/-- A put keeps the bound: it evicts before it grows a full table (R118). -/
theorem arptPut_length_le {t : ArpTable} {n : Nat} (hwf : ArpTable.wf t) (hn : 0 < n) (hle : t.length ≤ n) (draw : Nat)
    (k : ArpKey) (m : Mac) : (arptPut (some n) draw t k m).length ≤ n := by
  unfold arptPut
  split
  · next hd =>
    have hfull : n ≤ t.length := by simpa using ((putDraws_iff ..).1 hd).2
    have hset := arptSet_length_le (arptEvict_wf hwf draw) k m
    rw [arptEvict_length (by omega)] at hset
    omega
  · next hd =>
    rw [arptSet_length hwf]
    split
    · exact hle
    · next hhas =>
      have hroom : ¬ n ≤ t.length := fun hfull =>
        hd ((putDraws_iff ..).2 ⟨by simpa [arptHas_iff] using hhas, n, rfl, hfull⟩)
      omega

theorem withinCapacity_arptPut {t : ArpTable} (hwf : ArpTable.wf t) (h : withinCapacity t) (draw : Nat) (k : ArpKey) (m : Mac) :
    withinCapacity (arptPut Config.arpCapacity draw t k m) := by
  intro n hn
  rw [Option.mem_def.1 hn]
  exact arptPut_length_le hwf (arpCapacity_pos hn) (h n hn) draw k m

/-- An overwrite of a present key adds no entry (R120). -/
theorem withinCapacity_arptSet {t : ArpTable} {k : ArpKey} (hwf : ArpTable.wf t) (h : withinCapacity t) (hk : arptHas t k = true)
    (m : Mac) : withinCapacity (arptSet t k m) := by
  intro n hn
  rw [arptSet_length hwf, if_pos hk]
  exact h n hn

/-- The part of the invariant that is about the table. -/
def goodTable (t : ArpTable) : Prop := ArpTable.wf t ∧ withinCapacity t

theorem goodTable_putEntry {s : State} (h : goodTable s.arpt) (k : ArpKey) (m : Mac) : goodTable (putEntry k m s).arpt :=
  ⟨arptPut_wf h.1 .., withinCapacity_arptPut h.1 h.2 _ k m⟩

theorem goodTable_overwriteEntry {s : State} {k : ArpKey} (h : goodTable s.arpt) (hk : arptHas s.arpt k = true) (m : Mac) :
    goodTable (overwriteEntry k m s).arpt :=
  ⟨arptSet_wf h.1 .., withinCapacity_arptSet h.1 h.2 hk m⟩

theorem goodTable_tableEffect {s : State} (h : goodTable s.arpt) (i : Instr) : goodTable (tableEffect i s).arpt := by
  cases i with
  | arpUpdate =>
    simp only [tableEffect]
    split
    · next hk => exact goodTable_overwriteEntry h hk _
    · exact h
  | arpInsert | arpMerge => exact goodTable_putEntry h _ _
  | arpProcess =>
    simp only [tableEffect]
    split
    · exact h
    · exact goodTable_putEntry h _ _
  | _ => exact h

theorem good_reset : good State.reset :=
  ⟨reset_arpt_wf, by simp [withinCapacity, State.reset], rfl, rfl, by simp [State.reset]⟩

/-- The reset event's state differs from the reset state in the draw counter alone, which `good` does not read. -/
theorem good_applyReset (s : State) : good (applyReset s) := good_reset

/-- An answer of a response the block may give keeps the invariant. -/
theorem good_answer {r : Response} {s : State} (ht : goodTable s.arpt) (hmac : s.hostMac = Config.hostMac)
    (hip : s.hostIp = Config.hostIp) (hr : responseOk r) : good (answer r s) :=
  ⟨ht.1, ht.2, hmac, hip, by simpa using hr⟩

/-- A command keeps the invariant. -/
theorem exec_good {i : Instr} {s t : State} (hs : good s) (h : exec i s = .next t) : good t := by
  obtain ⟨hwf, hcap, hmac, hip, -⟩ := hs
  obtain ⟨hadm, rfl⟩ := exec_next.1 h
  exact good_answer (goodTable_tableEffect ⟨hwf, hcap⟩ i) (by simpa using hmac) (by simpa using hip)
    (responseTo_responseOk hadm s)

/-- A reserved code keeps the invariant: it answers ILLEGAL_COMMAND and writes nothing (R54). -/
theorem execReserved_good {p : OperandPorts} {s t : State} (hs : good s) (h : execReserved p s = .next t) : good t := by
  obtain ⟨hwf, hcap, hmac, hip, -⟩ := hs
  obtain ⟨-, rfl⟩ := execReserved_next.1 h
  exact good_answer ⟨hwf, hcap⟩ hmac hip (raise_responseOk (by decide))

/-- What a step that answers a state can be: a reset, nothing to do, a command, or a reserved code. -/
theorem step_cases {s t : State} (h : step s = .next t) :
    t = applyReset s ∨ t = s ∨ (∃ i, exec i s = .next t) ∨ ∃ p, execReserved p s = .next t := by
  unfold step at h
  split at h
  · exact .inl (Host.Outcome.next.inj h).symm
  · split at h
    · exact .inr (.inl (Host.Outcome.next.inj h).symm)
    · split at h
      · exact .inr (.inr (.inl ⟨_, h⟩))
      · exact .inr (.inr (.inr ⟨_, h⟩))

/-- Settles O59, over the four things a step can be. -/
theorem everyStepKeepsTheBlockGood : Obligations.EveryStepKeepsTheBlockGood := by
  intro s t hs h
  obtain rfl | rfl | ⟨i, h⟩ | ⟨p, h⟩ := step_cases h
  · exact good_applyReset s
  · exact hs
  · exact exec_good hs h
  · exact execReserved_good hs h

/-- Settles O60: the table is empty, the identity is the parameters', and no response stands on the port. -/
theorem resetIsGood : Obligations.ResetIsGood := good_reset

end Sys2Proof.Proofs

/-!
Byte order, the stateless commands and sessions. `ofNat_memRead_beBytes` reads an image back where it stands (R13); `uniform` is the
outcome of a command that looks at its operands alone (R42); `serve_cons_next` takes a session apart at its first command (R45).
-/

namespace Sys2Proof.Proofs

open Sys2Proof.Machine Sys2Proof.Safety

/-! ### Byte order -/

/-- The leading byte of an image is the value's bits 8n+7 to 8n (R13). -/
theorem beBytes_toNat_succ {w : Nat} (n : Nat) (v : BitVec w) :
    beBytes (n + 1) v.toNat = v.extractLsb' (8 * n) 8 :: beBytes n v.toNat := rfl

theorem beBytes_zero (v : Nat) : beBytes 0 v = [] := rfl

/-- A read of n bytes where an n-byte image stands gives the value's low n bytes (R13). -/
theorem memRead_beBytes (p q : Bytes) (n v : Nat) : memRead (p ++ beBytes n v ++ q) p.length n = v % 2 ^ (8 * n) := by
  have h := memRead_append p (beBytes n v) q
  rwa [beBytes_length, beNat_beBytes] at h

/-- A field read where its image stands is the value written there (R13, R36). -/
theorem ofNat_memRead_beBytes (p q : Bytes) (n : Nat) (v : BitVec (8 * n)) :
    BitVec.ofNat (8 * n) (memRead (p ++ beBytes n v.toNat ++ q) p.length n) = v := by
  rw [memRead_beBytes]
  simp

/-- Settles O5: the images by `beBytes_toNat_succ`, the reads by `ofNat_memRead_beBytes`. -/
theorem fieldsAreBigEndian : Obligations.FieldsAreBigEndian := by
  refine ⟨fun v => ?_, fun v => ?_, fun v => ?_, fun p q v => ?_, fun p q v => ?_, fun p q v => ?_⟩
  · simp only [u16, beBytes_toNat_succ, beBytes_zero]
  · simp only [u32, beBytes_toNat_succ, beBytes_zero]
  · simp only [u48, beBytes_toNat_succ, beBytes_zero]
  · exact ofNat_memRead_beBytes p q 2 v
  · exact ofNat_memRead_beBytes p q 4 v
  · exact ofNat_memRead_beBytes p q 6 v

/-! ### The codec and checksum commands -/

/-- One outcome in every state: the same response, or the same refusal (R42). -/
def uniform (f : State → Out) : Prop :=
  (∃ r, ∀ s, f s = respond r s) ∨ ∃ e, ∀ s, f s = .refused e

theorem uniform_respond (r : Response) : uniform (respond r) := .inl ⟨r, fun _ => rfl⟩

/-- The BUF_LEN test looks at no state. -/
theorem uniform_admitLength {f : State → Out} (hf : uniform f) (n : Nat) : uniform fun s => admitLength n (f s) := by
  rcases Nat.lt_or_ge Config.bufLen n with h | h
  · exact .inr ⟨.oversize, fun _ => admitLength_of_lt h _⟩
  · simpa only [admitLength_of_le h] using hf

theorem uniform_returnBytes (out : Bytes) : uniform (returnBytes out) := uniform_admitLength (uniform_respond _) _

/-- The segment test looks at no state. -/
theorem uniform_admitSegment {f : State → Out} (hf : uniform f) (n : Nat) : uniform fun s => admitSegment n (f s) := by
  rcases Nat.lt_or_ge 0xFFFF n with h | h
  · exact .inr ⟨.segmentTooLong, fun _ => admitSegment_of_lt h _⟩
  · simpa only [admitSegment_of_le h] using hf

theorem uniform_ite {p : Prop} [Decidable p] {f g : State → Out} (hf : uniform f) (hg : uniform g) :
    uniform fun s => if p then f s else g s := by
  split
  · exact hf
  · exact hg

/-- A command that does not read the ARP table is made of tests and responses that look at its operands alone. -/
theorem exec_uniform {i : Instr} (h : stateless i = true) : uniform fun s => exec i s := by
  cases i with
  | arpLookup | arpUpdate | arpInsert | arpMerge | arpProcess => cases h
  | csumPseudo => exact uniform_respond _
  | tcpDecodeCheck =>
    simp only [exec, execTcpDecodeCheck]
    exact uniform_admitLength (uniform_ite (uniform_respond _) (uniform_admitSegment (uniform_respond _) _)) _
  | tcpEncodeFill =>
    simp only [exec, execTcpEncodeFill]
    exact uniform_admitLength (uniform_admitSegment (uniform_respond _) _) _
  | csumSum16 | csumChecksum | csumVerify | ethDecode | arpDecode | arpv4Decode | ipv4Decode | icmpDecode | tcpDecode =>
    simp only [exec, execCsumSum16, execCsumChecksum, execCsumVerify, execEthDecode, execArpDecode, execArpv4Decode,
      execIpv4Decode, execIcmpDecode, execTcpDecode]
    exact uniform_admitLength (uniform_respond _) _
  | ethEncode | arpEncode | arpv4Encode | ipv4Encode | ipv4EncodeFill | icmpEncode | icmpEncodeFill | tcpEncode =>
    simp only [exec, execEthEncode, execArpEncode, execArpv4Encode, execIpv4Encode, execIpv4EncodeFill, execIcmpEncode,
      execIcmpEncodeFill, execTcpEncode]
    exact uniform_returnBytes _

/-- Settles O49: the command's outcome is uniform, and `exec_next` says which of the two outcomes it is. -/
theorem codecAndChecksumCommandsAreStateless : Obligations.CodecAndChecksumCommandsAreStateless := by
  intro i hi
  obtain ⟨r, hr⟩ | ⟨e, he⟩ := exec_uniform hi
  · have hwf : i.wellFormed = true := (exec_next.1 (hr State.reset)).1
    exact ⟨fun _ => ⟨r, hr⟩, fun hn => by simp [hwf] at hn⟩
  · refine ⟨fun hwf => ?_, fun _ => ⟨e, he⟩⟩
    have hnext : exec i State.reset = .next _ := exec_next.2 ⟨hwf, rfl⟩
    exact nomatch (he State.reset).symm.trans hnext

/-! ### Sessions -/

/-- No write to the table asserts the reset input. -/
@[simp] theorem tableEffect_resetInput (i : Instr) (s : State) : (tableEffect i s).resetInput = s.resetInput := by
  cases i with
  | arpUpdate => simp only [tableEffect]; split <;> rfl
  | arpProcess => simp only [tableEffect]; split <;> rfl
  | _ => rfl

/-- A presented command that is not refused is answered, and the reset input stays as the host left it (R44, R51). -/
theorem step_present_next {c : Command} {s t : State} (hs : s.resetInput = false) (h : step (present c s) = .next t) :
    (∃ r, t.response = some r) ∧ t.resetInput = false := by
  simp only [step, present_resetInput, hs, present_command, Bool.false_eq_true, if_false] at h
  split at h
  · obtain ⟨-, rfl⟩ := exec_next.1 h
    exact ⟨⟨_, rfl⟩, by simpa using hs⟩
  · obtain ⟨-, rfl⟩ := execReserved_next.1 h
    exact ⟨⟨_, rfl⟩, hs⟩

theorem serve_nil_next {s t : State} {rs : List Response} : serve [] s = .next (t, rs) ↔ t = s ∧ rs = [] := by
  simp [serve, eq_comm]

/-- A session is its first command's step, then the session of the rest in the state that step left (R45). -/
theorem serve_cons_next {c : Command} {cs : List Command} {s u : State} {qs : List Response} :
    serve (c :: cs) s = .next (u, qs) ↔
      ∃ t rs, step (present c s) = .next t ∧ serve cs t = .next (u, rs) ∧ qs = t.response.toList ++ rs := by
  rw [serve]
  cases step (present c s) with
  | fault e | refused e => simp
  | next t =>
    cases hcs : serve cs t with
    | fault e | refused e => simp [hcs]
    | next p => simp [hcs, Prod.ext_iff, eq_comm]

/-- One response for each command of a session. -/
theorem serve_length {cs : List Command} {s t : State} {rs : List Response} (hs : s.resetInput = false)
    (h : serve cs s = .next (t, rs)) : rs.length = cs.length := by
  induction cs generalizing s rs with
  | nil =>
    obtain ⟨-, rfl⟩ := serve_nil_next.1 h
    rfl
  | cons c cs ih =>
    obtain ⟨u, qs, hstep, hserve, rfl⟩ := serve_cons_next.1 h
    obtain ⟨⟨r, hr⟩, hu⟩ := step_present_next hs hstep
    simp [hr, ih hu hserve]

/-- A session of two lists of commands is the first one's session and then the second's. -/
theorem serve_append {cs ds : List Command} {s t u : State} {rs qs : List Response} (hcs : serve cs s = .next (t, rs))
    (hds : serve ds t = .next (u, qs)) : serve (cs ++ ds) s = .next (u, rs ++ qs) := by
  induction cs generalizing s rs with
  | nil =>
    obtain ⟨rfl, rfl⟩ := serve_nil_next.1 hcs
    exact hds
  | cons c cs ih =>
    obtain ⟨v, ps, hstep, hserve, rfl⟩ := serve_cons_next.1 hcs
    exact serve_cons_next.2 ⟨v, ps ++ qs, hstep, ih hserve, by simp⟩

/-- Settles O56: `serve_length` and `serve_append`, by induction over the commands, and `serve_cons_next` for one command. -/
theorem responsesComeInCommandOrder : Obligations.ResponsesComeInCommandOrder :=
  ⟨fun _ _ _ _ => serve_length, fun _ _ _ _ _ _ _ => serve_append,
    fun _ _ t _ hstep hr => serve_cons_next.2 ⟨t, [], hstep, rfl, by simp [hr]⟩⟩

end Sys2Proof.Proofs

/-!
The command map. `decode_eq_ok` and `decode_eq_error` say what the decoder answers, `mem_rowCodes` that the 25 codes of R53 are those of
the map's rows, and `step_of_decode_ok` and `step_of_decode_error` what a step does with either answer (R51 to R54).
-/

namespace Sys2Proof.Proofs

open Sys2Proof.Machine

/-! ### Decoding and encoding -/

/-- The codes of the command map's rows. -/
def rowCodes : List Nat := commandMap.map fun row => row.1.toNat

/-- They are the 25 of R53. -/
theorem rowCodes_eq : rowCodes = [0x01, 0x02, 0x03, 0x04, 0x10, 0x11, 0x12, 0x13, 0x14, 0x15, 0x20, 0x21, 0x22, 0x24, 0x25, 0x26,
    0x30, 0x31, 0x32, 0x33, 0x40, 0x41, 0x42, 0x43, 0x44] := rfl

/-- A code is compared whole (R52), so as a bit vector or as its number. -/
theorem mem_rowCodes {op : BitVec 8} : op.toNat ∈ rowCodes ↔ op ∈ commandMap.map Prod.fst := by
  simp [rowCodes, ← BitVec.toNat_inj]

/-- A command decodes when its code selects a row, which reads its operands (R52, R55). -/
theorem decode_eq_ok {c : Command} {i : Instr} :
    decode c = .ok i ↔ ∃ f, selectRow c.op commandMap = some f ∧ f c.operands = i := by
  cases h : selectRow c.op commandMap <;> simp [decode, h]

/-- A command whose code no row has is reserved, and no other is (R54). -/
theorem decode_eq_error {c : Command} : decode c = .error (.reservedCode c.op) ↔ c.op.toNat ∉ rowCodes := by
  rw [mem_rowCodes, ← selectRow_eq_none]
  cases h : selectRow c.op commandMap <;> simp [decode, h]

/-- The decoder's other answer is a command (R53). -/
theorem exists_decode_eq_ok {c : Command} : (∃ i, decode c = .ok i) ↔ c.op.toNat ∈ rowCodes := by
  rw [← not_iff_not, ← decode_eq_error]
  cases h : selectRow c.op commandMap <;> simp [decode, h]

/-- Every command decodes from its own encoding, operands included. -/
theorem decode_encode (i : Instr) : decode (encode i) = .ok i := by
  cases i <;> rfl

/-- A row's commands encode to the row's own code, whatever their operands. -/
theorem encode_op_of_mem {op : BitVec 8} {f : OperandPorts → Instr} (h : (op, f) ∈ commandMap) (p : OperandPorts) :
    (encode (f p)).op = op := by
  have rows : ∀ row ∈ commandMap, (encode (row.2 p)).op = row.1 := by simp [commandMap, encode]
  exact rows _ h

/-- Settles O1: `decode_encode`, the row a decoded command was read from, and `exists_decode_eq_ok`. -/
theorem decodeAndEncodeAgree : Obligations.DecodeAndEncodeAgree := by
  unfold Obligations.DecodeAndEncodeAgree
  rw [← rowCodes_eq]
  refine ⟨decode_encode, fun c i h => ?_, fun _ => exists_decode_eq_ok⟩
  obtain ⟨f, hf, rfl⟩ := decode_eq_ok.1 h
  have hop := encode_op_of_mem (selectRow_mem hf)
  exact ⟨hop _, fun p => ⟨f p, decode_eq_ok.2 ⟨f, hf, rfl⟩, hop p⟩⟩

/-- Settles O2: each word is looked up in the map. -/
theorem tableWordsDecode : Obligations.TableWordsDecode := ⟨rfl, rfl, rfl, rfl, rfl, rfl, rfl⟩

/-! ### A step with a command on the port -/

section
variable {s : State} {c : Command} (hreset : s.resetInput = false) (hcmd : s.command = some c)
include hreset hcmd

theorem step_of_decode_ok {i : Instr} (h : decode c = .ok i) : step s = exec i s := by
  simp [step, hreset, hcmd, h]

theorem step_of_decode_error {op : BitVec 8} (h : decode c = .error (.reservedCode op)) :
    step s = execReserved c.operands s := by
  simp [step, hreset, hcmd, h]

end

/-- Settles O3: the step's own branch for a decoded command. -/
theorem stepRunsTheDecodedCommand : Obligations.StepRunsTheDecodedCommand :=
  fun _ _ _ hreset hcmd => step_of_decode_ok hreset hcmd

/-! ### Reserved codes -/

/-- R53 has no family above 4. -/
theorem notMem_rowCodes_of_fam {op : BitVec 8} (h : 5 ≤ (op.extractLsb' 4 4).toNat) : op.toNat ∉ rowCodes := by
  have fam_le : ∀ op ∈ commandMap.map Prod.fst, (op.extractLsb' 4 4).toNat ≤ 4 := by decide
  rw [mem_rowCodes]
  intro hop
  have := fam_le op hop
  omega

/-- A table word selects by its low 8 bits (R52). -/
theorem decodeTableWord_isNone (nbits w : Nat) : (decodeTableWord nbits w).isNone = decide (w % 256 ∉ rowCodes) := by
  have hop : (commandOfTableWord w).op.toNat = w % 256 := by simp [commandOfTableWord]
  rw [decodeTableWord, ← hop]
  by_cases h : (commandOfTableWord w).op.toNat ∈ rowCodes
  · obtain ⟨i, hi⟩ := exists_decode_eq_ok.2 h
    simp [hi, h, Except.toOption]
  · simp [decode_eq_error.2 h, h, Except.toOption]

/-- The 256 codes less the 25 of R53. -/
theorem reservedTableWords_length : ((List.range 256).filter fun n => (decodeTableWord 8 n).isNone).length = 231 := by
  have hreserved : ((List.range 256).filter fun n => (decodeTableWord 8 n).isNone) =
      (List.range 256).filter fun n => n ∉ rowCodes :=
    List.filter_congr fun n hn => by rw [decodeTableWord_isNone, Nat.mod_eq_of_lt (List.mem_range.1 hn)]
  have hcodes : rowCodes.toFinset ⊆ Finset.range 256 := by decide
  calc ((List.range 256).filter fun n => (decodeTableWord 8 n).isNone).length
      = ((Finset.range 256).filter fun n => n ∉ rowCodes).card := congrArg List.length hreserved
    _ = (Finset.range 256 \ rowCodes.toFinset).card := by simp [Finset.sdiff_eq_filter]
    _ = 256 - rowCodes.toFinset.card := by rw [Finset.card_sdiff_of_subset hcodes, Finset.card_range]
    _ = 231 := rfl

/-- Settles O4: a code outside the map is run by `execReserved`, which measures the ports before it answers. -/
theorem reservedCodesAreIllegalCommands : Obligations.ReservedCodesAreIllegalCommands := by
  unfold Obligations.ReservedCodesAreIllegalCommands
  rw [← rowCodes_eq]
  refine ⟨fun s c hreset hcmd hop => ?_, reservedTableWords_length, fun _ h => decode_eq_error.2 (notMem_rowCodes_of_fam h)⟩
  rw [step_of_decode_error hreset hcmd (decode_eq_error.2 hop)]
  exact ⟨fun h => execReserved_of_le h s, fun h => execReserved_of_lt h s⟩

end Sys2Proof.Proofs

/-!
The checksum engine. `fold_eq` is the closed form of `fold` (R73); `csumOk_iff` is validity as a sum that 0xFFFF divides (R77),
`csumOk_memWrite16` says which field values validate (R84, R85), and `wordSum_flipBit` how far one flipped bit moves the sum (R86).
-/

namespace Sys2Proof.Proofs

open Sys2Proof.Machine Sys2Proof.Safety

/-! ### Folding (R73) -/

/-- One pass of the loop, as arithmetic: the low 16 bits plus the rest. -/
theorem foldPass_eq (s : Nat) : (s &&& 0xFFFF) + (s >>> 16) = s % 2 ^ 16 + s / 2 ^ 16 := by
  rw [Nat.shiftRight_eq_div_pow, show 0xFFFF = 2 ^ 16 - 1 from rfl, Nat.and_two_pow_sub_one_eq_mod]

/-- A pass keeps s mod 0xFFFF and keeps s non-zero, so the loop ends in the least value that has both. -/
theorem foldLoop_eq {passes s : Nat} (h : s ≤ passes) :
    foldLoop passes s = if s = 0 then 0 else (s - 1) % 0xFFFF + 1 := by
  induction passes generalizing s with
  | zero =>
    obtain rfl := Nat.le_zero.1 h
    rfl
  | succ passes ih =>
    rw [foldLoop, foldPass_eq, Nat.shiftRight_eq_div_pow]
    by_cases hs : s / 2 ^ 16 = 0
    · rw [if_pos hs]
      split <;> omega
    · have hpass : s % 2 ^ 16 + s / 2 ^ 16 ≤ passes := by omega
      have hkeeps : (s % 2 ^ 16 + s / 2 ^ 16 - 1) % 0xFFFF = (s - 1) % 0xFFFF := by omega
      rw [if_neg hs, ih hpass, hkeeps, if_neg (by omega), if_neg (by omega)]

theorem fold_eq (s : Nat) : fold s = if s = 0 then 0 else (s - 1) % 0xFFFF + 1 := foldLoop_eq le_rfl

theorem fold_lt (s : Nat) : fold s < 2 ^ 16 := by
  rw [fold_eq]
  split <;> omega

theorem fold_eq_zero {s : Nat} : fold s = 0 ↔ s = 0 := by
  rw [fold_eq]
  split <;> omega

theorem fold_eq_ffff {s : Nat} : fold s = 0xFFFF ↔ 0 < s ∧ 0xFFFF ∣ s := by
  rw [fold_eq]
  split <;> omega

/-- A part of a sum may be folded before the whole is (R75). -/
theorem fold_fold_add (s t : Nat) : fold (fold s + t) = fold (s + t) := by
  simp only [fold_eq]
  split_ifs <;> omega

/-- Settles O6: every clause is arithmetic on the closed form `fold_eq`. -/
theorem foldIsTheEndAroundCarryLoop : Obligations.FoldIsTheEndAroundCarryLoop := by
  refine ⟨fun s => ?_, fun s hs => ?_, fold_lt, rfl, fun s hs => ?_, fun s => fold_eq_zero, fun s => fold_eq_ffff⟩
  · rw [foldPass_eq, Nat.shiftRight_eq_div_pow, fold_eq, fold_eq]
    split_ifs <;> omega
  · rw [foldPass_eq]
    rw [Nat.shiftRight_eq_div_pow] at hs
    omega
  · rw [fold_eq, if_neg (by omega)]

/-! ### Words (R74) -/

theorem words_length (b : Bytes) : (words b).length = (b.length + 1) / 2 := by
  induction b using words.induct with
  | case1 => rfl
  | case2 x => simp [words]
  | case3 x y r ih =>
    simp only [words, List.length_cons, ih]
    omega

theorem words_getElem?_pair {b : Bytes} {k : Nat} {x y : Byte} (hx : b[2 * k]? = some x) (hy : b[2 * k + 1]? = some y) :
    (words b)[k]? = some (x ++ y) := by
  induction b using words.induct generalizing k with
  | case1 => simp at hx
  | case2 z => simp at hy
  | case3 z w r ih =>
    cases k with
    | zero =>
      obtain rfl : z = x := by simpa using hx
      obtain rfl : w = y := by simpa using hy
      rfl
    | succ k => exact ih hx hy

theorem words_getElem?_last {b : Bytes} {k : Nat} {x : Byte} (hx : b[2 * k]? = some x) (hl : 2 * k + 1 = b.length) :
    (words b)[k]? = some (x ++ 0#8) := by
  induction b using words.induct generalizing k with
  | case1 => simp at hx
  | case2 z =>
    obtain rfl : k = 0 := by simpa using hl
    obtain rfl : z = x := by simpa using hx
    rfl
  | case3 z w r ih =>
    cases k with
    | zero => simp at hl
    | succ k => exact ih hx (by simpa [Nat.mul_succ] using hl)

/-- Two bytes side by side are `x << 8 | y`. -/
theorem append_byte_eq (x y : Byte) : x ++ y = BitVec.ofNat 16 (x.toNat <<< 8 ||| y.toNat) := by
  rw [← BitVec.toNat_append, BitVec.ofNat_toNat, BitVec.setWidth_eq]

/-- Settles O7: `words_getElem?_pair` and `words_getElem?_last`, with the byte 0 as an odd last byte's partner. -/
theorem wordsPadAnOddLastByte : Obligations.WordsPadAnOddLastByte := by
  refine fun b => ⟨words_length b, fun k => ⟨fun x y hx hy => ?_, fun x hx hl => ?_⟩⟩
  · rw [words_getElem?_pair hx hy, append_byte_eq]
  · rw [words_getElem?_last hx hl, append_byte_eq, BitVec.toNat_zero, Nat.or_zero]

theorem toNat_eq_zero {w : Nat} {x : BitVec w} : x.toNat = 0 ↔ x = 0#w := by
  rw [← BitVec.toNat_inj, BitVec.toNat_zero]

/-- Nothing cancels in a sum over the naturals. -/
theorem wordSum_eq_zero {b : Bytes} : wordSum b = 0 ↔ ∀ x ∈ b, x = 0#8 := by
  induction b using words.induct with
  | case1 => simp
  | case2 x => simp [wordSum_singleton, toNat_eq_zero]
  | case3 x y r ih => simp [wordSum_cons_cons, ih, toNat_eq_zero, and_assoc]

/-! ### The sum and its complement (R75 to R77) -/

theorem sum16_toNat (b : Bytes) (c : BitVec 32) : (sum16 b c).toNat = fold (c.toNat + wordSum b) := by
  rw [sum16, BitVec.toNat_ofNat, Nat.mod_eq_of_lt (fold_lt _)]

/-- Adding word by word with an end-around carry is folding the whole sum once (R75, D27). -/
theorem foldl_fold_add (ws : List (BitVec 16)) (s : Nat) :
    ws.foldl (fun acc w => fold (acc + w.toNat)) (fold s) = fold (s + (ws.map BitVec.toNat).sum) := by
  induction ws generalizing s with
  | nil => simp
  | cons w ws ih => rw [List.foldl_cons, fold_fold_add, ih, List.map_cons, List.sum_cons, Nat.add_assoc]

/-- Settles O8: `sum16_toNat`, and `foldl_fold_add` from the folded carry. -/
theorem sum16FoldsTheUnlimitedSum : Obligations.Sum16FoldsTheUnlimitedSum :=
  fun b c => ⟨sum16_toNat b c, (sum16_toNat b c).trans (foldl_fold_add (words b) c.toNat).symm⟩

theorem checksum_toNat (b : Bytes) (c : BitVec 32) : (checksum b c).toNat = 0xFFFF - (sum16 b c).toNat :=
  BitVec.toNat_sub_of_le (Nat.le_of_lt_succ (sum16 b c).isLt)

theorem checksum_eq_zero {b : Bytes} {c : BitVec 32} : checksum b c = 0#16 ↔ sum16 b c = 0xFFFF#16 := by
  have := (sum16 b c).isLt
  simp only [← BitVec.toNat_inj, checksum_toNat, BitVec.toNat_ofNat]
  omega

theorem csumOk_iff_sum16 {b : Bytes} {c : BitVec 32} : csumOk b c = true ↔ sum16 b c = 0xFFFF#16 := by simp [csumOk]

/-- A string is valid when its unlimited sum is a non-zero multiple of 0xFFFF. -/
theorem csumOk_iff {b : Bytes} {c : BitVec 32} :
    csumOk b c = true ↔ 0 < c.toNat + wordSum b ∧ 0xFFFF ∣ c.toNat + wordSum b := by
  rw [csumOk_iff_sum16, ← BitVec.toNat_inj, sum16_toNat]
  exact fold_eq_ffff

/-- Settles O9: `checksum_toNat`, and the two readings of a checksum of 0. -/
theorem checksumIsTheComplementOfTheSum : Obligations.ChecksumIsTheComplementOfTheSum :=
  fun b c => ⟨checksum_toNat b c, checksum_eq_zero, csumOk_iff_sum16⟩

/-! ### The checksum field (R79, R84, R85) -/

/-- What may be added to s so that it folds to 0xFFFF: the complement of its fold, or either zero when it already does. -/
theorem fold_add_eq_ffff {s k : Nat} (hk : k < 2 ^ 16) :
    fold (s + k) = 0xFFFF ↔ k = 0xFFFF - fold s ∨ (fold s = 0xFFFF ∧ k = 0xFFFF) := by
  have hs := fold_eq s
  have hsk := fold_eq (s + k)
  split at hs <;> split at hsk <;> omega

section
variable {e : Bytes} {o : Nat} (ho : o % 2 = 0) (hl : o + 2 ≤ e.length)

include hl in
theorem fill_eq (c : BitVec 32) : fill e o c = memWrite16 e o (checksum (memWrite16 e o 0#16) c) :=
  memWrite16_memWrite16 e o _ _ hl

include ho hl

/-- The field values that validate: the checksum of the zeroed image, and 0xFFFF where that checksum is 0. -/
theorem csumOk_memWrite16 (c : BitVec 32) (k : BitVec 16) :
    csumOk (memWrite16 e o k) c = true ↔ k = checksum (memWrite16 e o 0#16) c ∨
      (sum16 (memWrite16 e o 0#16) c = 0xFFFF#16 ∧ k = 0xFFFF#16) := by
  simp only [csumOk_iff_sum16, ← BitVec.toNat_inj, checksum_toNat, sum16_toNat]
  rw [wordSum_memWrite16 e o k ho hl, ← Nat.add_assoc]
  exact fold_add_eq_ffff k.isLt

/-- What `fill` writes validates (R84). -/
theorem csumOk_fill (c : BitVec 32) : csumOk (fill e o c) c = true := by
  rw [fill_eq hl, csumOk_memWrite16 ho hl]
  exact .inl rfl

end

/-- Settles O10, by `csumOk_fill`. -/
theorem fillAlwaysValidates : Obligations.FillAlwaysValidates := fun _ _ c ho hl => csumOk_fill ho hl c

/-- Settles O11: `csumOk_memWrite16`, where the sum of the zeroed image is 0xFFFF and where it is not. -/
theorem onlyNegativeZeroHasTwoFieldValues : Obligations.OnlyNegativeZeroHasTwoFieldValues := by
  refine fun e o c ho hl => ⟨fun hsum => ?_, fun hsum => ⟨fun k => ?_, fill_eq hl c⟩⟩
  · have hzero : checksum (memWrite16 e o 0#16) c = 0#16 := checksum_eq_zero.2 hsum
    exact ⟨fun k => by simp [csumOk_memWrite16 ho hl, hzero, hsum], by rw [fill_eq hl, hzero]⟩
  · simp [csumOk_memWrite16 ho hl, hsum]

/-! ### A flipped bit (R86) -/

/-- Flipping bit j moves a number up or down by 2^j. -/
theorem xor_two_pow_cases (x j : Nat) : x ^^^ 2 ^ j = x + 2 ^ j ∨ x = (x ^^^ 2 ^ j) + 2 ^ j := by
  induction j generalizing x with
  | zero =>
    have hdiv : (x ^^^ 1) / 2 = x / 2 := by simp [Nat.xor_div_two]
    have hmod : (x ^^^ 1) % 2 = (x + 1) % 2 := Nat.xor_mod_two_eq
    rw [pow_zero]
    omega
  | succ j ih =>
    have hdiv : (x ^^^ 2 ^ (j + 1)) / 2 = x / 2 ^^^ 2 ^ j := by rw [Nat.xor_div_two, pow_succ, Nat.mul_div_cancel _ two_pos]
    have hmod : (x ^^^ 2 ^ (j + 1)) % 2 = (x + 2 ^ (j + 1)) % 2 := Nat.xor_mod_two_eq
    have := ih (x / 2)
    omega

theorem byte_flip_cases (x : Byte) {j : Nat} (hj : j < 8) :
    (x ^^^ BitVec.twoPow 8 j).toNat = x.toNat + 2 ^ j ∨ x.toNat = (x ^^^ BitVec.twoPow 8 j).toNat + 2 ^ j := by
  rw [BitVec.toNat_xor, BitVec.toNat_twoPow, Nat.mod_eq_of_lt (Nat.pow_lt_pow_right (by decide) hj)]
  exact xor_two_pow_cases x.toNat j

@[simp] theorem flipBit_length (b : Bytes) (i j : Nat) : (flipBit b i j).length = b.length := List.length_modify ..

theorem take_flipBit (b : Bytes) (n i j : Nat) : (flipBit b i j).take n = flipBit (b.take n) i j := List.take_modify ..

/-- A flipped bit moves the word sum up or down by a power of two below 2^16, the bit's place in its word. -/
theorem wordSum_flipBit {b : Bytes} {i j : Nat} (hi : i < b.length) (hj : j < 8) :
    ∃ m < 16, wordSum (flipBit b i j) = wordSum b + 2 ^ m ∨ wordSum b = wordSum (flipBit b i j) + 2 ^ m := by
  have hhigh : 2 ^ (j + 8) = 2 ^ j * 256 := pow_add 2 j 8
  induction b using words.induct generalizing i with
  | case1 => simp at hi
  | case2 x =>
    obtain rfl : i = 0 := by simpa using hi
    refine ⟨j + 8, by omega, ?_⟩
    have := byte_flip_cases x hj
    simp only [flipBit, List.modify_zero_cons, wordSum_singleton]
    omega
  | case3 x y r ih =>
    match i with
    | 0 =>
      refine ⟨j + 8, by omega, ?_⟩
      have := byte_flip_cases x hj
      simp only [flipBit, List.modify_zero_cons, wordSum_cons_cons]
      omega
    | 1 =>
      refine ⟨j, by omega, ?_⟩
      have := byte_flip_cases y hj
      simp only [flipBit, List.modify_succ_cons, List.modify_zero_cons, wordSum_cons_cons]
      omega
    | i + 2 =>
      obtain ⟨m, hm, hsum⟩ := ih (i := i) (by simpa using hi)
      refine ⟨m, hm, ?_⟩
      simp only [flipBit, List.modify_succ_cons, wordSum_cons_cons] at hsum ⊢
      omega

/-- No power of two below 2^16 is a multiple of 0xFFFF, so the moved sum is none. -/
theorem csumOk_flipBit {b : Bytes} {c : BitVec 32} {i j : Nat} (hi : i < b.length) (hj : j < 8) (h : csumOk b c = true) :
    csumOk (flipBit b i j) c = false := by
  rw [← Bool.not_eq_true, csumOk_iff]
  rintro ⟨-, hdvd'⟩
  obtain ⟨-, hdvd⟩ := csumOk_iff.1 h
  obtain ⟨m, hm, hsum⟩ := wordSum_flipBit hi hj
  have hpos : 0 < 2 ^ m := Nat.two_pow_pos m
  have hle : 2 ^ m ≤ 2 ^ 15 := Nat.pow_le_pow_right two_pos (by omega)
  omega

/-- A response is OK when its first check passes and the rest is OK. -/
theorem status_check_eq_ok {p : Prop} [Decidable p] {st : Status} {r : Response} (hst : st ≠ .ok) :
    (if p then raise st else r).status = .ok ↔ ¬p ∧ r.status = .ok := by
  split <;> simp [raise, *]

/-- An accepted packet passed the length and the checksum test (R100). -/
theorem ipv4Decode_ok {b : Bytes} (h : (ipv4Decode b).status = .ok) : 20 ≤ b.length ∧ csumOk (slice b 0 20) 0#32 = true := by
  rw [ipv4Decode, status_check_eq_ok (by decide), status_check_eq_ok (by decide)] at h
  obtain ⟨hl, hc, -⟩ := h
  exact ⟨Nat.le_of_not_lt hl, by simpa using hc⟩

/-- A packet whose first 20 bytes do not validate is reported, whatever its header length (R98, R132). -/
theorem ipv4Decode_of_not_csumOk {b : Bytes} (hl : 20 ≤ b.length) (hc : csumOk (slice b 0 20) 0#32 = false) :
    ipv4Decode b = raise .invalidChecksum := by
  rw [ipv4Decode, if_neg (Nat.not_lt.2 hl), if_pos hc]

/-- An accepted message passed the length and the checksum test (R105). -/
theorem icmpDecode_ok {b : Bytes} (h : (icmpDecode b).status = .ok) : 4 ≤ b.length ∧ csumOk b 0#32 = true := by
  rw [icmpDecode, status_check_eq_ok (by decide), status_check_eq_ok (by decide)] at h
  obtain ⟨hl, hc, -⟩ := h
  exact ⟨Nat.le_of_not_lt hl, by simpa using hc⟩

/-- A message that does not validate is reported (R105). -/
theorem icmpDecode_of_not_csumOk {b : Bytes} (hl : 4 ≤ b.length) (hc : csumOk b 0#32 = false) :
    icmpDecode b = raise .invalidChecksum := by
  rw [icmpDecode, if_neg (Nat.not_lt.2 hl), if_pos hc]

/-- A corrupted packet that would have been accepted (R86, R98). -/
theorem ipv4Decode_flipBit {b : Bytes} {i j : Nat} (hi : i < 20) (hj : j < 8) (h : (ipv4Decode b).status = .ok) :
    ipv4Decode (flipBit b i j) = raise .invalidChecksum := by
  obtain ⟨hl, hc⟩ := ipv4Decode_ok h
  refine ipv4Decode_of_not_csumOk (by simpa using hl) ?_
  have hcovered : slice (flipBit b i j) 0 20 = flipBit (slice b 0 20) i j := take_flipBit b 20 i j
  rw [hcovered]
  exact csumOk_flipBit (by simp [slice]; omega) hj hc

/-- A corrupted message that would have been accepted (R86, R105). -/
theorem icmpDecode_flipBit {b : Bytes} {i j : Nat} (hi : i < b.length) (hj : j < 8) (h : (icmpDecode b).status = .ok) :
    icmpDecode (flipBit b i j) = raise .invalidChecksum := by
  obtain ⟨hl, hc⟩ := icmpDecode_ok h
  exact icmpDecode_of_not_csumOk (by simpa using hl) (csumOk_flipBit hi hj hc)

/-- The response a command left on the port is the one it gives in that state. -/
theorem responseTo_of_exec {i : Instr} {s t : State} {r : Response} (h : exec i s = .next t) (hr : t.response = some r) :
    i.wellFormed = true ∧ responseTo i s = r := by
  obtain ⟨hwf, rfl⟩ := exec_next.1 h
  exact ⟨hwf, Option.some.inj hr⟩

/-- The next state of an admitted command that writes nothing to the table. -/
theorem exec_of_responseTo {i : Instr} {s : State} {r : Response} (hwf : i.wellFormed = true) (htable : tableEffect i s = s)
    (hr : responseTo i s = r) : exec i s = .next { s with command := none, response := some r } :=
  exec_next.2 ⟨hwf, by rw [hr, htable]; rfl⟩

/-- Settles O12: `csumOk_flipBit`, and its uses `ipv4Decode_flipBit` and `icmpDecode_flipBit` through `exec`. -/
theorem singleBitFlipsAreDetected : Obligations.SingleBitFlipsAreDetected := by
  refine ⟨fun b c i j => csumOk_flipBit, fun b i j s t h sup k hi hj hexec => ?_, fun b i j s t h hi hj hexec => ?_⟩
  · obtain ⟨hwf, hr⟩ := responseTo_of_exec hexec rfl
    have hflip := ipv4Decode_flipBit hi hj (congrArg Response.status hr)
    exact exec_of_responseTo (by simpa [Instr.wellFormed] using hwf) rfl hflip
  · obtain ⟨hwf, hr⟩ := responseTo_of_exec hexec rfl
    have hflip := icmpDecode_flipBit hi hj (congrArg Response.status hr)
    exact exec_of_responseTo (by simpa [Instr.wellFormed] using hwf) rfl hflip

/-! ### The commands (R80 to R83) -/

/-- A command that only admits its byte string and answers: refused over BUF_LEN, and otherwise its response and nothing else. -/
theorem admitLength_respond (n : Nat) (r : Response) (s : State) :
    (Config.bufLen < n → admitLength n (respond r s) = .refused .oversize) ∧
      (n ≤ Config.bufLen → admitLength n (respond r s) = .next { s with command := none, response := some r }) :=
  ⟨fun h => admitLength_of_lt h _, fun h => admitLength_of_le h _⟩

/-- Settles O13: `admitLength_respond`, where zext_32 keeps the sum's number. -/
theorem csumSum16ReturnsTheFoldedSum : Obligations.CsumSum16ReturnsTheFoldedSum :=
  ⟨fun _ => rfl, fun b carry s => by
    rw [BitVec.ofNat_toNat]
    exact admitLength_respond b.length _ s⟩

/-- The complement is 0xFFFF only where nothing was added (R81). -/
theorem checksum_eq_ffff {b : Bytes} {c : BitVec 32} : checksum b c = 0xFFFF#16 ↔ c = 0#32 ∧ ∀ x ∈ b, x = 0#8 := by
  have hsum : checksum b c = 0xFFFF#16 ↔ fold (c.toNat + wordSum b) = 0 := by
    have := fold_lt (c.toNat + wordSum b)
    rw [← BitVec.toNat_inj, checksum_toNat, sum16_toNat, BitVec.toNat_ofNat]
    omega
  rw [hsum, fold_eq_zero, Nat.add_eq_zero_iff, wordSum_eq_zero, toNat_eq_zero]

/-- Settles O14: `admitLength_respond` for the command, `checksum_eq_ffff` for the value. -/
theorem csumChecksumReturnsTheComplement : Obligations.CsumChecksumReturnsTheComplement :=
  ⟨fun _ => rfl, fun b _ s => admitLength_respond b.length _ s, fun _ _ => checksum_eq_ffff⟩

/-- Settles O15, by `admitLength_respond`. -/
theorem csumVerifySetsTheValidFlag : Obligations.CsumVerifySetsTheValidFlag :=
  ⟨fun _ => rfl, fun b _ s => admitLength_respond b.length _ s⟩

/-- The pseudo-header sum before it is folded (R78). -/
def pseudoSum (src dst : Ip) (n : BitVec 16) : Nat :=
  src.toNat / 2 ^ 16 + src.toNat % 2 ^ 16 + dst.toNat / 2 ^ 16 + dst.toNat % 2 ^ 16 + 6 + n.toNat

theorem extractLsb'_high (a : Ip) : (a.extractLsb' 16 16).toNat = a.toNat / 2 ^ 16 := by
  rw [BitVec.extractLsb'_toNat, Nat.shiftRight_eq_div_pow, Nat.mod_eq_of_lt (by omega)]

theorem extractLsb'_low (a : Ip) : (a.extractLsb' 0 16).toNat = a.toNat % 2 ^ 16 := BitVec.extractLsb'_toNat 0 16 a

theorem pseudo_eq (src dst : Ip) (n : BitVec 16) : pseudo src dst n = BitVec.ofNat 16 (fold (pseudoSum src dst n)) := by
  simp only [pseudo, pseudoSum, extractLsb'_high, extractLsb'_low]

theorem pseudoSum_comm (src dst : Ip) (n : BitVec 16) : pseudoSum src dst n = pseudoSum dst src n := by
  unfold pseudoSum
  omega

theorem pseudo_comm (src dst : Ip) (n : BitVec 16) : pseudo src dst n = pseudo dst src n := by
  rw [pseudo_eq, pseudo_eq, pseudoSum_comm]

/-- Six halfwords fit the 32-bit carry. -/
theorem pseudoSum_lt (src dst : Ip) (n : BitVec 16) : pseudoSum src dst n < 2 ^ 32 := by
  unfold pseudoSum
  omega

/-- A start carry may be folded first (R78). -/
theorem sum16_fold_carry (b : Bytes) {s : Nat} (h : s < 2 ^ 32) :
    sum16 b (BitVec.ofNat 32 (fold s)) = sum16 b (BitVec.ofNat 32 s) := by
  have := fold_lt s
  rw [← BitVec.toNat_inj, sum16_toNat, sum16_toNat, BitVec.toNat_ofNat, BitVec.toNat_ofNat, Nat.mod_eq_of_lt (by omega),
    Nat.mod_eq_of_lt h, fold_fold_add]

/-- Settles O16: `pseudo_eq` and `pseudo_comm` for the command, `sum16_fold_carry` for the carry. -/
theorem csumPseudoSumsThePseudoHeader : Obligations.CsumPseudoSumsThePseudoHeader := by
  refine ⟨fun _ => rfl, fun src dst n s => ?_, fun src dst n s => ?_, fun src dst n b => ?_⟩
  · rw [exec, execCsumPseudo, pseudo_eq]
    rfl
  · rw [exec, exec, execCsumPseudo, execCsumPseudo, pseudo_comm]
  · rw [pseudo_eq, BitVec.toNat_ofNat, Nat.mod_eq_of_lt (fold_lt _)]
    exact sum16_fold_carry b (pseudoSum_lt src dst n)

end Sys2Proof.Proofs

/-!
The link-layer codecs (R88 to R97). `u48_be48` and its kin write a field back as the sub-string it was read from, so that encoding a
parse joins neighbouring sub-strings (`ethEncode_ethParse`); `be48_u48` and its kin read an image where it stands
(`ethParse_ethEncode`). Explicit bytes are an image (`u48_bytes`), so what a decoder reads from them is the same fact.
-/

namespace Sys2Proof.Proofs

open Sys2Proof.Machine

/-! ### Fields and sub-strings -/

theorem be16_u16 (p q : Bytes) (v : BitVec 16) : be16 (p ++ u16 v ++ q) p.length = v := ofNat_memRead_beBytes p q 2 v
theorem be32_u32 (p q : Bytes) (v : BitVec 32) : be32 (p ++ u32 v ++ q) p.length = v := ofNat_memRead_beBytes p q 4 v
theorem be48_u48 (p q : Bytes) (v : BitVec 48) : be48 (p ++ u48 v ++ q) p.length = v := ofNat_memRead_beBytes p q 6 v

theorem byteAt_u8 (p q : Bytes) (v : Byte) : byteAt (p ++ u8 v ++ q) p.length = v := by simp [byteAt]

theorem slice_length {b : Bytes} {x y : Nat} (h : y ≤ b.length) : (slice b x y).length = y - x := by
  simp [slice, h]

/-- Neighbouring sub-strings join. -/
theorem slice_append_slice (b : Bytes) {x y z : Nat} (hxy : x ≤ y) (hyz : y ≤ z) : slice b x y ++ slice b y z = slice b x z := by
  obtain ⟨n, rfl⟩ := Nat.exists_eq_add_of_le hxy
  have htake : slice b x (x + n) = ((b.take z).drop x).take n := by
    rw [slice, List.take_drop, List.take_take, Nat.min_eq_left hyz]
  rw [htake]
  exact List.drop_take_append_drop (b.take z) x n

/-- The image of a field is the sub-string it was read from (R13, R36). -/
theorem beBytes_ofNat_memRead {b : Bytes} {o n : Nat} (h : o + n ≤ b.length) :
    beBytes n (BitVec.ofNat (8 * n) (memRead b o n)).toNat = slice b o (o + n) := by
  have hlen : (slice b o (o + n)).length = n := by rw [slice_length h]; omega
  have hlt := beNat_lt (slice b o (o + n))
  have himage := beBytes_beNat (slice b o (o + n))
  rw [hlen] at hlt himage
  rw [BitVec.toNat_ofNat, memRead, Nat.mod_eq_of_lt hlt, himage]

theorem u16_be16 {b : Bytes} {o : Nat} (h : o + 2 ≤ b.length) : u16 (be16 b o) = slice b o (o + 2) := beBytes_ofNat_memRead h
theorem u32_be32 {b : Bytes} {o : Nat} (h : o + 4 ≤ b.length) : u32 (be32 b o) = slice b o (o + 4) := beBytes_ofNat_memRead h
theorem u48_be48 {b : Bytes} {o : Nat} (h : o + 6 ≤ b.length) : u48 (be48 b o) = slice b o (o + 6) := beBytes_ofNat_memRead h

theorem u8_byteAt {b : Bytes} {o : Nat} (h : o + 1 ≤ b.length) : u8 (byteAt b o) = slice b o (o + 1) := by
  rw [u8_eq, byteAt, slice, List.getD_eq_getElem b _ h, List.take_add_one, List.getElem?_eq_getElem h]
  exact (List.drop_left' (List.length_take_of_le (Nat.le_of_lt h))).symm

/-- Bytes side by side are their own image. -/
theorem u16_bytes (x y : Byte) : u16 (x ++ y) = [x, y] := by
  rw [← ofNat_beNat_two]
  exact u16_be16 (b := [x, y]) (o := 0) le_rfl

theorem u32_bytes (x y z w : Byte) : u32 (x ++ y ++ z ++ w) = [x, y, z, w] := by
  rw [← ofNat_beNat_four]
  exact u32_be32 (b := [x, y, z, w]) (o := 0) le_rfl

theorem u48_bytes (x y z w r q : Byte) : u48 (x ++ y ++ z ++ w ++ r ++ q) = [x, y, z, w, r, q] := by
  rw [← ofNat_beNat_six]
  exact u48_be48 (b := [x, y, z, w, r, q]) (o := 0) le_rfl

/-! ### Decoders that test a length, and encoders -/

section
variable {n : Nat} {b : Bytes}

/-- A decoder whose first check is a length: over BUF_LEN it is refused, and under the fixed n bytes it answers TRUNCATED_INPUT. -/
theorem lengthChecked_rejects (hn : n ≤ 1514) (r : Response) (s : State) :
    (Config.bufLen < b.length →
      admitLength b.length (respond (if b.length < n then raise .truncatedInput else r) s) = .refused .oversize) ∧
    (b.length < n → admitLength b.length (respond (if b.length < n then raise .truncatedInput else r) s) =
      .next { s with command := none, response := some { status := .truncatedInput } }) := by
  have hbuf := le_bufLen
  refine ⟨fun h => admitLength_of_lt h _, fun h => ?_⟩
  rw [if_pos h, admitLength_of_le (by omega)]
  rfl

/-- Past the length check it answers as its remaining checks do. -/
theorem lengthChecked_accepts (hn : n ≤ b.length) (hb : b.length ≤ Config.bufLen) (r : Response) (s : State) :
    admitLength b.length (respond (if b.length < n then raise .truncatedInput else r) s) =
      .next { s with command := none, response := some r } := by
  rw [if_neg (Nat.not_lt.2 hn), admitLength_of_le hb]
  rfl

/-- An encoder whose result fits returns it. -/
theorem returnBytes_of_le (h : b.length ≤ Config.bufLen) (s : State) :
    returnBytes b s = .next { s with command := none, response := some { status := .ok, result := some (.bytes b) } } :=
  admitLength_of_le h _

end

/-! ### Ethernet (R88 to R90) -/

theorem ethParse_ethEncode (f : EthernetFrame) : ethParse (ethEncode f) = f := by
  obtain ⟨dst, src, ethertype, payload⟩ := f
  rw [ethParse, EthernetFrame.mk.injEq]
  refine ⟨?_, ?_, ?_, ?_⟩
  · simpa [ethEncode] using be48_u48 [] (u48 src ++ u16 ethertype ++ payload) dst
  · simpa [ethEncode] using be48_u48 (u48 dst) (u16 ethertype ++ payload) src
  · simpa [ethEncode] using be16_u16 (u48 dst ++ u48 src) payload ethertype
  · exact List.drop_left' (by simp)

theorem ethEncode_ethParse {b : Bytes} (h : 14 ≤ b.length) : ethEncode (ethParse b) = b := by
  simp only [ethEncode, ethParse]
  rw [u48_be48 (by omega), u48_be48 (by omega), u16_be16 h, slice_append_slice b (by omega) (by omega),
    slice_append_slice b (by omega) (by omega)]
  exact List.take_append_drop 14 b

theorem exec_ethDecode_of_le {b : Bytes} (h : 14 ≤ b.length) (hb : b.length ≤ Config.bufLen) (s : State) :
    exec (.ethDecode b) s = .next { s with
      command := none
      response := some {
        status := .ok, result := some (.ethernet (ethParse b)), kind := some (ethKind (ethParse b).ethertype) } } :=
  lengthChecked_accepts h hb _ s

/-- ETH_DECODE of a frame's own bytes (R90). -/
theorem exec_ethDecode_ethEncode {f : EthernetFrame} (h : 14 + f.payload.length ≤ Config.bufLen) (s : State) :
    exec (.ethDecode (ethEncode f)) s = .next { s with
      command := none
      response := some { status := .ok, result := some (.ethernet f), kind := some (ethKind f.ethertype) } } := by
  rw [exec_ethDecode_of_le (by simp) (by simpa using h), ethParse_ethEncode]

/-- Settles O17: `lengthChecked_rejects`, and `exec_ethDecode_ethEncode` on the frame whose image the explicit bytes are. -/
theorem ethDecodeSplitsTheFrame : Obligations.EthDecodeSplitsTheFrame := by
  refine ⟨fun _ => rfl, fun b s => lengthChecked_rejects (by decide) _ s,
    fun b0 b1 b2 b3 b4 b5 b6 b7 b8 b9 b10 b11 b12 b13 payload s h => ?_⟩
  have himage : [b0, b1, b2, b3, b4, b5, b6, b7, b8, b9, b10, b11, b12, b13] ++ payload = ethEncode
      ⟨b0 ++ b1 ++ b2 ++ b3 ++ b4 ++ b5, b6 ++ b7 ++ b8 ++ b9 ++ b10 ++ b11, b12 ++ b13, payload⟩ := by
    simp only [ethEncode, u48_bytes, u16_bytes]
    rfl
  rw [himage]
  exact exec_ethDecode_ethEncode h s

/-- Settles O18, by `admitLength_respond` at the length of the frame's image. -/
theorem ethEncodeJoinsTheFields : Obligations.EthEncodeJoinsTheFields :=
  ⟨fun _ => rfl, fun f s => ethEncode_length f ▸ admitLength_respond _ (okWith (.bytes (ethEncode f))) s⟩

/-- Settles O19: `ethParse_ethEncode` one way, `ethEncode_ethParse` the other. -/
theorem ethernetRoundTrip : Obligations.EthernetRoundTrip := by
  refine ⟨fun f s h => ⟨ethEncode f, _, returnBytes_of_le (by simpa using h) s, exec_ethDecode_ethEncode h⟩,
    fun b s hl hb => ⟨ethParse b, _, exec_ethDecode_of_le hl hb s, fun t => ?_⟩⟩
  rw [exec, execEthEncode, ethEncode_ethParse hl]
  exact returnBytes_of_le hb t

/-! ### ARP messages (R91 to R94) -/

theorem arpParse_arpEncode (m : ArpMessage) : arpParse (arpEncode m) = m := by
  obtain ⟨hw, proto, hwSize, protoSize, opcode, payload⟩ := m
  rw [arpParse, ArpMessage.mk.injEq]
  refine ⟨?_, ?_, ?_, ?_, ?_, ?_⟩
  · simpa [arpEncode] using be16_u16 [] (u16 proto ++ [hwSize, protoSize] ++ u16 opcode ++ payload) hw
  · simpa [arpEncode] using be16_u16 (u16 hw) ([hwSize, protoSize] ++ u16 opcode ++ payload) proto
  · simpa [arpEncode] using byteAt_u8 (u16 hw ++ u16 proto) ([protoSize] ++ u16 opcode ++ payload) hwSize
  · simpa [arpEncode] using byteAt_u8 (u16 hw ++ u16 proto ++ [hwSize]) (u16 opcode ++ payload) protoSize
  · simpa [arpEncode] using be16_u16 (u16 hw ++ u16 proto ++ [hwSize, protoSize]) payload opcode
  · exact List.drop_left' (by simp)

theorem arpEncode_arpParse {b : Bytes} (h : 8 ≤ b.length) : arpEncode (arpParse b) = b := by
  simp only [arpEncode, arpParse]
  rw [u16_be16 (by omega), u16_be16 (by omega), u8_byteAt (by omega), u8_byteAt (by omega), u16_be16 h]
  iterate 4 rw [slice_append_slice b (by omega) (by omega)]
  exact List.take_append_drop 8 b

theorem exec_arpDecode_of_le {b : Bytes} (h : 8 ≤ b.length) (hb : b.length ≤ Config.bufLen) (s : State) :
    exec (.arpDecode b) s = .next { s with
      command := none
      response := some { status := .ok, result := some (.arp (arpParse b)), supported := some (arpSupported (arpParse b)) } } :=
  lengthChecked_accepts h hb _ s

/-- ARP_DECODE of a message's own bytes (R94). -/
theorem exec_arpDecode_arpEncode {m : ArpMessage} (h : 8 + m.payload.length ≤ Config.bufLen) (s : State) :
    exec (.arpDecode (arpEncode m)) s = .next { s with
      command := none
      response := some { status := .ok, result := some (.arp m), supported := some (arpSupported m) } } := by
  rw [exec_arpDecode_of_le (by simp) (by simpa using h), arpParse_arpEncode]

/-- Settles O20: `lengthChecked_rejects`, and `exec_arpDecode_arpEncode` on the message whose image the explicit bytes are. -/
theorem arpDecodeSplitsTheMessage : Obligations.ArpDecodeSplitsTheMessage := by
  refine ⟨fun _ => rfl, fun b s => lengthChecked_rejects (by decide) _ s, fun b0 b1 b2 b3 b4 b5 b6 b7 payload s h => ?_⟩
  have himage : [b0, b1, b2, b3, b4, b5, b6, b7] ++ payload =
      arpEncode ⟨b0 ++ b1, b2 ++ b3, b4, b5, b6 ++ b7, payload⟩ := by
    simp only [arpEncode, u16_bytes, u8_eq]
    rfl
  rw [himage, Bool.decide_and]
  exact exec_arpDecode_arpEncode h s

/-- Settles O21, by `admitLength_respond` at the length of the message's image; a one-byte field is its own image. -/
theorem arpEncodeJoinsTheFields : Obligations.ArpEncodeJoinsTheFields := by
  refine ⟨fun _ => rfl, fun m s => ?_⟩
  have himage : u16 m.hwType ++ u16 m.protoType ++ [m.hwSize, m.protoSize] ++ u16 m.opcode ++ m.payload = arpEncode m := by
    simp [arpEncode]
  rw [himage, ← arpEncode_length]
  exact admitLength_respond _ (okWith (.bytes (arpEncode m))) s

/-- Settles O22: `arpParse_arpEncode` one way, `arpEncode_arpParse` the other. -/
theorem arpMessageRoundTrip : Obligations.ArpMessageRoundTrip := by
  refine ⟨fun m s h => ⟨arpEncode m, returnBytes_of_le (by simpa using h) s, exec_arpDecode_arpEncode h⟩,
    fun b s hl hb => ⟨arpParse b, exec_arpDecode_of_le hl hb s, fun t => ?_⟩⟩
  rw [exec, execArpEncode, arpEncode_arpParse hl]
  exact returnBytes_of_le hb t

/-! ### The ARPv4 body (R95 to R97) -/

/-- Whatever follows a body's 20 bytes is ignored (R95). -/
theorem arpv4Parse_arpv4Encode_append (a : ArpIPv4Body) (rest : Bytes) : arpv4Parse (arpv4Encode a ++ rest) = a := by
  obtain ⟨smac, sip, tmac, tip⟩ := a
  rw [arpv4Parse, ArpIPv4Body.mk.injEq]
  refine ⟨?_, ?_, ?_, ?_⟩
  · simpa [arpv4Encode] using be48_u48 [] (u32 sip ++ u48 tmac ++ u32 tip ++ rest) smac
  · simpa [arpv4Encode] using be32_u32 (u48 smac) (u48 tmac ++ u32 tip ++ rest) sip
  · simpa [arpv4Encode] using be48_u48 (u48 smac ++ u32 sip) (u32 tip ++ rest) tmac
  · simpa [arpv4Encode] using be32_u32 (u48 smac ++ u32 sip ++ u48 tmac) rest tip

theorem arpv4Encode_arpv4Parse {b : Bytes} (h : 20 ≤ b.length) : arpv4Encode (arpv4Parse b) = b.take 20 := by
  simp only [arpv4Encode, arpv4Parse]
  rw [u48_be48 (by omega), u32_be32 (by omega), u48_be48 (by omega), u32_be32 h]
  iterate 3 rw [slice_append_slice b (by omega) (by omega)]
  rfl

theorem exec_arpv4Decode_of_le {b : Bytes} (h : 20 ≤ b.length) (hb : b.length ≤ Config.bufLen) (s : State) :
    exec (.arpv4Decode b) s = .next { s with
      command := none, response := some { status := .ok, result := some (.arpv4 (arpv4Parse b)) } } :=
  lengthChecked_accepts h hb _ s

/-- ARPV4_DECODE of a body's own bytes and anything after them (R95, R97). -/
theorem exec_arpv4Decode_arpv4Encode {a : ArpIPv4Body} {rest : Bytes} (h : 20 + rest.length ≤ Config.bufLen) (s : State) :
    exec (.arpv4Decode (arpv4Encode a ++ rest)) s = .next { s with
      command := none, response := some { status := .ok, result := some (.arpv4 a) } } := by
  rw [exec_arpv4Decode_of_le (by simp) (by simpa using h), arpv4Parse_arpv4Encode_append]

/-- ARPV4_ENCODE's 20 bytes fit every BUF_LEN (R34, R96). -/
theorem exec_arpv4Encode (a : ArpIPv4Body) (s : State) :
    exec (.arpv4Encode a) s = .next { s with
      command := none, response := some { status := .ok, result := some (.bytes (arpv4Encode a)) } } :=
  returnBytes_of_le (b := arpv4Encode a) (Nat.le_trans (by simp) le_bufLen) s

/-- Settles O23: `lengthChecked_rejects`, and `exec_arpv4Decode_arpv4Encode` on the body whose image the explicit bytes are. -/
theorem arpv4DecodeReadsTwentyBytes : Obligations.Arpv4DecodeReadsTwentyBytes := by
  refine ⟨fun _ => rfl, fun b s => lengthChecked_rejects (by decide) _ s,
    fun b0 b1 b2 b3 b4 b5 b6 b7 b8 b9 b10 b11 b12 b13 b14 b15 b16 b17 b18 b19 rest s h => ?_⟩
  have himage : [b0, b1, b2, b3, b4, b5, b6, b7, b8, b9, b10, b11, b12, b13, b14, b15, b16, b17, b18, b19] = arpv4Encode
      ⟨b0 ++ b1 ++ b2 ++ b3 ++ b4 ++ b5, b6 ++ b7 ++ b8 ++ b9, b10 ++ b11 ++ b12 ++ b13 ++ b14 ++ b15,
        b16 ++ b17 ++ b18 ++ b19⟩ := by
    simp only [arpv4Encode, u48_bytes, u32_bytes]
    rfl
  rw [himage]
  exact exec_arpv4Decode_arpv4Encode h s

/-- Settles O24, by `exec_arpv4Encode`. -/
theorem arpv4EncodeWritesTwentyBytes : Obligations.Arpv4EncodeWritesTwentyBytes :=
  ⟨fun _ => rfl, fun a s => ⟨arpv4Encode a, rfl, arpv4Encode_length a, exec_arpv4Encode a s⟩⟩

/-- Settles O25: `arpv4Parse_arpv4Encode_append` with nothing appended one way, `arpv4Encode_arpv4Parse` the other. -/
theorem arpv4BodyRoundTrip : Obligations.Arpv4BodyRoundTrip := by
  refine ⟨fun a s => ⟨arpv4Encode a, exec_arpv4Encode a s, fun t => ?_⟩,
    fun b s hl hb => ⟨arpv4Parse b, exec_arpv4Decode_of_le hl hb s, fun t => ?_⟩⟩
  · rw [← List.append_nil (arpv4Encode a)]
    exact exec_arpv4Decode_arpv4Encode (Nat.le_trans (by decide) le_bufLen) t
  · rw [exec_arpv4Encode, arpv4Encode_arpv4Parse hl]

end Sys2Proof.Proofs

/-!
The IPv4 and ICMPv4 codecs (R98 to R108). A field is read out of a concatenation by skipping the images before it
(`be16_append_of_le`), so what a decoder answers to a record's image is said once (`exec_ipv4Decode_hdr20_append`,
`exec_icmpDecode_image`). An encoder is described at any value of the checksum field (`exec_ipv4Encode`, `exec_icmpEncode`), so filling
is encoding at the fresh checksum, which is the one a valid image holds but for the second value of R85 (`eq_checksum_of_csumOk`).
-/

namespace Sys2Proof.Proofs

open Sys2Proof.Machine Sys2Proof.Safety

/-! ### Accepted responses -/

/-- An OK response is the accepted one. -/
theorem responseTo_eq_accepted {i : Instr} {s : State} (h : (responseTo i s).status = .ok) : responseTo i s = accepted i s := by
  obtain ⟨st, -, hok, -, hr⟩ | hr := responseTo_checkedThen i s
  · rw [hr] at h
    exact absurd h hok
  · exact hr

/-! ### Reading past the images before a field -/

section
variable {p q : Bytes} {o : Nat}

theorem drop_append_of_le (h : p.length ≤ o) : (p ++ q).drop o = q.drop (o - p.length) := by
  rw [List.drop_append, List.drop_of_length_le h, List.nil_append]

theorem slice_append_of_le (h : p.length ≤ o) (y : Nat) : slice (p ++ q) o y = slice q (o - p.length) (y - p.length) := by
  have hlen : y - o = y - p.length - (o - p.length) := by omega
  rw [slice, slice, List.drop_take, List.drop_take, drop_append_of_le h, hlen]

theorem slice_append_of_length (h : p.length = o) : slice (p ++ q) 0 o = p := List.take_left' h

theorem byteAt_append_of_le (h : p.length ≤ o) : byteAt (p ++ q) o = byteAt q (o - p.length) :=
  List.getD_append_right p q 0#8 o h

theorem memRead_append_of_le (h : p.length ≤ o) (n : Nat) : memRead (p ++ q) o n = memRead q (o - p.length) n := by
  rw [memRead, memRead, slice_append_of_le h, Nat.sub_add_comm h]

theorem be16_append_of_le (h : p.length ≤ o) : be16 (p ++ q) o = be16 q (o - p.length) :=
  congrArg (BitVec.ofNat 16) (memRead_append_of_le h 2)

theorem be32_append_of_le (h : p.length ≤ o) : be32 (p ++ q) o = be32 q (o - p.length) :=
  congrArg (BitVec.ofNat 32) (memRead_append_of_le h 4)

end

theorem byteAt_u8_append (v : Byte) (q : Bytes) : byteAt (u8 v ++ q) 0 = v := byteAt_u8 [] q v
theorem be16_u16_append (v : BitVec 16) (q : Bytes) : be16 (u16 v ++ q) 0 = v := be16_u16 [] q v
theorem be32_u32_append (v : BitVec 32) (q : Bytes) : be32 (u32 v ++ q) 0 = v := be32_u32 [] q v

/-! ### The checksum field of an image -/

/-- A write where a 16-bit image stands replaces it. -/
theorem memWrite16_append {p : Bytes} {o : Nat} (h : p.length = o) (q : Bytes) (v w : BitVec 16) :
    memWrite16 (p ++ u16 v ++ q) o w = p ++ u16 w ++ q := by
  have hend : (p ++ u16 v).length = o + 2 := by simp [h]
  rw [memWrite16, List.drop_left' hend, List.append_assoc p, slice_append_of_length h]

/-- A valid image's field holds the checksum of the zeroed image, but for the second field value of R85. -/
theorem eq_checksum_of_csumOk {e : Bytes} {o : Nat} {c : BitVec 32} {k : BitVec 16} (ho : o % 2 = 0) (hl : o + 2 ≤ e.length)
    (hk : memWrite16 e o k = e) (hc : csumOk e c = true)
    (hne : ¬(sum16 (memWrite16 e o 0#16) c = 0xFFFF#16 ∧ k = 0xFFFF#16)) : k = checksum (memWrite16 e o 0#16) c := by
  rw [← hk, csumOk_memWrite16 ho hl] at hc
  exact hc.resolve_right hne

/-! ### IPv4 (R98 to R104) -/

/-- The header length of a consistent record is that of its image (R68, R104, R117). -/
theorem headerLength_of_consistent {n : BitVec 4} {options : Bytes}
    (h : (5 ≤ n.toNat ∧ options.length = n.toNat * 4 - 20) ∨ (n.toNat < 5 ∧ options = [])) :
    headerLength n = 20 + options.length := by
  unfold headerLength
  obtain ⟨hn, hlen⟩ | ⟨hn, rfl⟩ := h
  · omega
  · simp only [List.length_nil]
    omega

/-- Of the bytes after the fixed 20, the options are those that the header length adds (R68). -/
theorem headerLength_sub (n : BitVec 4) : headerLength n - 20 = n.toNat * 4 - 20 := by
  unfold headerLength
  omega

theorem le_headerLength (n : BitVec 4) : 20 ≤ headerLength n := Nat.le_max_right ..

theorem ipv4Parse_hdr20_append (h : IPv4Header) (rest : Bytes) {hl : Nat} (hhl : 20 ≤ hl) :
    ipv4Parse (hdr20 h ++ rest) hl = { h with options := rest.take (hl - 20), payload := rest.drop (hl - 20) } := by
  have hoptions : slice (hdr20 h ++ rest) 20 hl = rest.take (hl - 20) := by
    rw [slice_append_of_le (by simp), hdr20_length]
    rfl
  have hpayload : (hdr20 h ++ rest).drop hl = rest.drop (hl - 20) := by
    rw [drop_append_of_le (by simpa using hhl), hdr20_length]
  rw [ipv4Parse, hoptions, hpayload]
  simp only [hdr20, List.append_assoc, byteAt_append_of_le, be16_append_of_le, be32_append_of_le, byteAt_u8_append,
    be16_u16_append, be32_u32_append, u8_length, u16_length, u32_length, highNibble_packNibbles, lowNibble_packNibbles,
    flagsOf_packFragment, fragmentOffsetOf_packFragment, Nat.reduceLeDiff, Nat.reduceSub, le_refl]

theorem ipv4HeaderLength_hdr20_append (h : IPv4Header) (rest : Bytes) :
    ipv4HeaderLength (hdr20 h ++ rest) = headerLength h.ihl := by
  simp only [ipv4HeaderLength, hdr20, List.append_assoc, byteAt_u8_append, lowNibble_packNibbles]

/-- IPV4_DECODE's checks and result on a header's image and what follows it (R100). -/
theorem exec_ipv4Decode_hdr20_append {h : IPv4Header} {rest : Bytes} (hb : 20 + rest.length ≤ Config.bufLen) (s : State) :
    exec (.ipv4Decode (hdr20 h ++ rest)) s = .next { s with
      command := none
      response := some (
        if sum16 (hdr20 h) 0#32 ≠ 0xFFFF#16 then raise .invalidChecksum
        else if 20 + rest.length < headerLength h.ihl then raise .truncatedInput
        else ipv4Accept { h with
          options := rest.take (h.ihl.toNat * 4 - 20), payload := rest.drop (h.ihl.toNat * 4 - 20) }) } := by
  have hlen : (hdr20 h ++ rest).length = 20 + rest.length := by simp
  rw [exec, execIpv4Decode, ipv4Decode, lengthChecked_accepts (by omega) (by omega), slice_append_of_length (hdr20_length h),
    ipv4HeaderLength_hdr20_append, ipv4Parse_hdr20_append h rest (le_headerLength _), headerLength_sub, hlen]
  simp only [← Bool.not_eq_true, csumOk_iff_sum16, ne_eq]

theorem ipv4Supported_eq (h : IPv4Header) :
    ipv4Supported h = decide (h.version = 4#4 ∧ 5 ≤ h.ihl.toNat ∧ h.ttl ≠ 0#8) := by
  rw [ipv4Supported, Bool.and_assoc, Bool.decide_and, Bool.decide_and]

/-- Settles O26: `lengthChecked_rejects`, and `exec_ipv4Decode_hdr20_append` on the record whose image the explicit bytes are. -/
theorem ipv4DecodeChecksAndSplits : Obligations.Ipv4DecodeChecksAndSplits := by
  refine ⟨fun _ => rfl, fun b s => lengthChecked_rejects (by decide) _ s,
    fun b0 b1 b2 b3 b4 b5 b6 b7 b8 b9 b10 b11 b12 b13 b14 b15 b16 b17 b18 b19 rest s hb => ?_⟩
  have himage : [b0, b1, b2, b3, b4, b5, b6, b7, b8, b9, b10, b11, b12, b13, b14, b15, b16, b17, b18, b19] = hdr20
      ⟨highNibble b0, lowNibble b0, b1, b2 ++ b3, b4 ++ b5, flagsOf (b6 ++ b7), fragmentOffsetOf (b6 ++ b7), b8, b9, b10 ++ b11,
        b12 ++ b13 ++ b14 ++ b15, b16 ++ b17 ++ b18 ++ b19, [], []⟩ := by
    simp only [hdr20, packNibbles_split, packFragment_split, u8_eq, u16_bytes, u32_bytes]
    rfl
  rw [himage, exec_ipv4Decode_hdr20_append hb, ipv4Accept, ipv4Supported_eq]
  rfl

/-- IPV4_ENCODE of a record with any value in its checksum field (R102). -/
theorem exec_ipv4Encode (h : IPv4Header) (v : BitVec 16) (s : State) :
    (Config.bufLen < 20 + h.options.length + h.payload.length →
      exec (.ipv4Encode { h with checksum := v }) s = .refused .oversize) ∧
    (20 + h.options.length + h.payload.length ≤ Config.bufLen →
      exec (.ipv4Encode { h with checksum := v }) s = .next { s with
        command := none
        response := some {
          status := .ok, result := some (.bytes (hdr20 { h with checksum := v } ++ h.options ++ h.payload)) } }) :=
  ipv4Encode_length { h with checksum := v } ▸ admitLength_respond _ (okWith (.bytes (ipv4Encode { h with checksum := v }))) s

/-- Settles O27: `exec_ipv4Encode` at the record's own checksum; a one-byte field is its own image. -/
theorem ipv4EncodeIsVerbatim : Obligations.Ipv4EncodeIsVerbatim :=
  ⟨fun _ => rfl, fun h => by simp [hdr20, packNibbles, packFragment], fun h s => exec_ipv4Encode h h.checksum s⟩

theorem memWrite16_hdr20 (h : IPv4Header) (v : BitVec 16) : memWrite16 (hdr20 h) 10 v = hdr20 { h with checksum := v } := by
  simp only [hdr20, List.append_assoc _ (u32 h.srcAddr) (u32 h.dstAddr)]
  exact memWrite16_append (by simp) _ _ _

theorem fill_hdr20 (h : IPv4Header) :
    fill (hdr20 h) 10 0#32 = hdr20 { h with checksum := checksum (hdr20 { h with checksum := 0#16 }) 0#32 } := by
  rw [fill_eq (by simp), memWrite16_hdr20, memWrite16_hdr20]

/-- IPV4_ENCODE_FILL is IPV4_ENCODE of the record with a fresh checksum (R103). -/
theorem exec_ipv4EncodeFill (h : IPv4Header) (s : State) : exec (.ipv4EncodeFill h) s =
    exec (.ipv4Encode { h with checksum := checksum (hdr20 { h with checksum := 0#16 }) 0#32 }) s := by
  rw [exec, exec, execIpv4EncodeFill, execIpv4Encode, ipv4EncodeFill, fill_hdr20, ipv4Encode]

/-- Settles O28: `exec_ipv4EncodeFill`, and what IPV4_ENCODE does with the fresh checksum. -/
theorem ipv4EncodeFillWritesAFreshChecksum : Obligations.Ipv4EncodeFillWritesAFreshChecksum := by
  refine ⟨fun _ => rfl, fun h s => ?_⟩
  rw [exec_ipv4EncodeFill]
  exact exec_ipv4Encode h _ s

/-- IPV4_DECODE of the bytes of a consistent record, with any checksum that validates; the flags do not look at it (R104). -/
theorem exec_ipv4Decode_ipv4Encode {h : IPv4Header} {v : BitVec 16} (hcons : ipv4Consistent h)
    (hsum : sum16 (hdr20 { h with checksum := v }) 0#32 = 0xFFFF#16)
    (hb : 20 + h.options.length + h.payload.length ≤ Config.bufLen) (s : State) :
    exec (.ipv4Decode (hdr20 { h with checksum := v } ++ h.options ++ h.payload)) s = .next { s with
      command := none
      response := some {
        status := .ok, result := some (.ipv4 { h with checksum := v })
        supported := some (ipv4Supported h), kind := some (ipv4Kind h.protocol) } } := by
  have hhl : headerLength h.ihl = 20 + h.options.length := headerLength_of_consistent hcons
  have hopts : h.ihl.toNat * 4 - 20 = h.options.length := by rw [← headerLength_sub, hhl, Nat.add_sub_cancel_left]
  have hrest : (h.options ++ h.payload).length = h.options.length + h.payload.length := List.length_append
  have hfull : ¬20 + (h.options ++ h.payload).length < headerLength h.ihl := by omega
  rw [List.append_assoc, exec_ipv4Decode_hdr20_append (by omega), if_neg (not_not.2 hsum), if_neg hfull, hopts,
    List.take_left, List.drop_left]
  rfl

theorem hdr20_ipv4Parse {b : Bytes} (hl : 20 ≤ b.length) (n : Nat) : hdr20 (ipv4Parse b n) = slice b 0 20 := by
  simp only [hdr20, ipv4Parse, packNibbles_split, packFragment_split]
  simp (disch := omega) only [u8_byteAt, u16_be16, u32_be32, slice_append_slice]

theorem ipv4Encode_ipv4Parse {b : Bytes} (hl : 20 ≤ b.length) {n : Nat} (hn : 20 ≤ n) : ipv4Encode (ipv4Parse b n) = b := by
  rw [ipv4Encode, hdr20_ipv4Parse hl]
  simp only [ipv4Parse]
  rw [slice_append_slice b (Nat.zero_le 20) hn]
  exact List.take_append_drop n b

/-- A packet that IPV4_DECODE accepts is the image of the record it answers, and its first 20 bytes validate (R100, R104). -/
theorem ipv4Decode_accepts {b : Bytes} {h : IPv4Header} {sup : Bool} {k : Kind}
    (hr : ipv4Decode b = { status := .ok, result := some (.ipv4 h), supported := some sup, kind := some k }) :
    ipv4Encode h = b ∧ csumOk (hdr20 h) 0#32 = true := by
  have hok : (ipv4Decode b).status = .ok := congrArg Response.status hr
  obtain ⟨hl, hc⟩ := ipv4Decode_ok hok
  have haccept : ipv4Decode b = ipv4Accept (ipv4Parse b (ipv4HeaderLength b)) :=
    responseTo_eq_accepted (i := .ipv4Decode b) (s := State.reset) hok
  obtain rfl : h = ipv4Parse b (ipv4HeaderLength b) := by
    simpa [ipv4Accept, okWith] using congrArg Response.result (hr.symm.trans haccept)
  exact ⟨ipv4Encode_ipv4Parse hl (le_headerLength _), by rwa [hdr20_ipv4Parse hl]⟩

/-- A fresh checksum validates (R84, R103). -/
theorem sum16_hdr20_fresh (h : IPv4Header) :
    sum16 (hdr20 { h with checksum := checksum (hdr20 { h with checksum := 0#16 }) 0#32 }) 0#32 = 0xFFFF#16 := by
  rw [← fill_hdr20, ← csumOk_iff_sum16]
  exact csumOk_fill rfl (by simp) _

/-- A checksum that validates is the fresh one, but for R85's second field value. -/
theorem ipv4_checksum_eq_fresh {h : IPv4Header} (hc : csumOk (hdr20 h) 0#32 = true)
    (hne : ¬(sum16 (memWrite16 (hdr20 h) 10 0#16) 0#32 = 0xFFFF#16 ∧ h.checksum = 0xFFFF#16)) :
    h.checksum = checksum (hdr20 { h with checksum := 0#16 }) 0#32 := by
  rw [← memWrite16_hdr20]
  exact eq_checksum_of_csumOk rfl (by simp) (memWrite16_hdr20 h _) hc hne

/-- Settles O29: `exec_ipv4Decode_ipv4Encode` for a record, with its own checksum or a fresh one, and `ipv4Decode_accepts` for a
packet. -/
theorem ipv4RoundTrip : Obligations.Ipv4RoundTrip := by
  refine ⟨fun h s hcons hsum hb =>
      ⟨_, (exec_ipv4Encode h h.checksum s).2 hb, exec_ipv4Decode_ipv4Encode hcons hsum hb⟩,
    fun h s hcons hb => ⟨_, ?_, exec_ipv4Decode_ipv4Encode hcons (sum16_hdr20_fresh h) hb⟩, fun b h sup k s t hexec => ?_⟩
  · rw [exec_ipv4EncodeFill]
    exact (exec_ipv4Encode h _ s).2 hb
  · obtain ⟨hwf, hr⟩ := responseTo_of_exec hexec rfl
    obtain ⟨rfl, hc⟩ := ipv4Decode_accepts hr
    have hb : 20 + h.options.length + h.payload.length ≤ Config.bufLen := by
      simpa [Instr.wellFormed, fitsBuffer] using hwf
    have hencode := (exec_ipv4Encode h h.checksum t).2 hb
    have htake : (ipv4Encode h).take 20 = hdr20 h := by
      rw [ipv4Encode, List.append_assoc, List.take_left' (hdr20_length h)]
    rw [htake]
    refine ⟨hencode, fun hne => ?_⟩
    rw [exec_ipv4EncodeFill, ← ipv4_checksum_eq_fresh hc hne]
    exact hencode

/-! ### ICMPv4 (R105 to R108) -/

theorem icmpParse_image (type code : Byte) (v : BitVec 16) (data : Bytes) :
    icmpParse ([type, code] ++ u16 v ++ data) = ⟨type, code, v, data⟩ := by
  rw [icmpParse, Icmpv4Header.mk.injEq]
  exact ⟨rfl, rfl, be16_u16 [type, code] data v, List.drop_left' (by simp)⟩

/-- ICMP_DECODE's checks and result on the image of a message (R105). -/
theorem exec_icmpDecode_image (type code : Byte) (v : BitVec 16) {data : Bytes} (hb : 4 + data.length ≤ Config.bufLen)
    (s : State) : exec (.icmpDecode ([type, code] ++ u16 v ++ data)) s = .next { s with
      command := none
      response := some (
        if sum16 ([type, code] ++ u16 v ++ data) 0#32 ≠ 0xFFFF#16 then raise .invalidChecksum
        else okWith (.icmp ⟨type, code, v, data⟩)) } := by
  have hlen : ([type, code] ++ u16 v ++ data).length = 4 + data.length := by simp +arith
  rw [exec, execIcmpDecode, icmpDecode, lengthChecked_accepts (by omega) (by omega), icmpParse_image]
  simp only [← Bool.not_eq_true, csumOk_iff_sum16, ne_eq]

/-- Settles O30: `lengthChecked_rejects`, and `exec_icmpDecode_image` at the checksum that bytes 2 and 3 hold. -/
theorem icmpDecodeChecksTheWholeMessage : Obligations.IcmpDecodeChecksTheWholeMessage := by
  refine ⟨fun _ => rfl, fun b s => lengthChecked_rejects (by decide) _ s, fun b0 b1 b2 b3 data s hb => ?_⟩
  have himage : [b0, b1, b2, b3] ++ data = [b0, b1] ++ u16 (b2 ++ b3) ++ data := by
    rw [u16_bytes]
    rfl
  rw [himage]
  exact exec_icmpDecode_image b0 b1 _ hb s

/-- ICMP_ENCODE of a record with any value in its checksum field (R106). -/
theorem exec_icmpEncode (h : Icmpv4Header) (v : BitVec 16) (s : State) :
    (Config.bufLen < 4 + h.data.length → exec (.icmpEncode { h with checksum := v }) s = .refused .oversize) ∧
    (4 + h.data.length ≤ Config.bufLen → exec (.icmpEncode { h with checksum := v }) s = .next { s with
      command := none
      response := some { status := .ok, result := some (.bytes ([h.type, h.code] ++ u16 v ++ h.data)) } }) := by
  have himage : [h.type, h.code] ++ u16 v ++ h.data = icmpEncode { h with checksum := v } := by simp [icmpEncode]
  rw [himage]
  exact icmpEncode_length { h with checksum := v } ▸
    admitLength_respond _ (okWith (.bytes (icmpEncode { h with checksum := v }))) s

/-- Settles O31: `exec_icmpEncode` at the record's own checksum. -/
theorem icmpEncodeIsVerbatim : Obligations.IcmpEncodeIsVerbatim :=
  ⟨fun _ => rfl, fun h s => exec_icmpEncode h h.checksum s⟩

theorem memWrite16_icmpImage (type code : Byte) (v w : BitVec 16) (data : Bytes) :
    memWrite16 ([type, code] ++ u16 v ++ data) 2 w = [type, code] ++ u16 w ++ data :=
  memWrite16_append rfl data v w

/-- ICMP_ENCODE_FILL is ICMP_ENCODE of the record with a fresh checksum (R107). -/
theorem exec_icmpEncodeFill (h : Icmpv4Header) (s : State) : exec (.icmpEncodeFill h) s =
    exec (.icmpEncode { h with checksum := checksum ([h.type, h.code] ++ u16 0#16 ++ h.data) 0#32 }) s := by
  have hfill : icmpEncodeFill h =
      icmpEncode { h with checksum := checksum ([h.type, h.code] ++ u16 0#16 ++ h.data) 0#32 } := by
    rw [icmpEncodeFill, icmpEncode, fill_eq (by simp), u8_eq, u8_eq, List.singleton_append, memWrite16_icmpImage,
      memWrite16_icmpImage]
  rw [exec, exec, execIcmpEncodeFill, execIcmpEncode, hfill]

/-- Settles O32: `exec_icmpEncodeFill`, and what ICMP_ENCODE does with the fresh checksum. -/
theorem icmpEncodeFillWritesAFreshChecksum : Obligations.IcmpEncodeFillWritesAFreshChecksum := by
  refine ⟨fun _ => rfl, fun h s => ?_⟩
  rw [exec_icmpEncodeFill]
  exact exec_icmpEncode h _ s

/-- ICMP_DECODE of a message's image, when it validates (R108). -/
theorem exec_icmpDecode_of_sum16 {type code : Byte} {v : BitVec 16} {data : Bytes}
    (hsum : sum16 ([type, code] ++ u16 v ++ data) 0#32 = 0xFFFF#16) (hb : 4 + data.length ≤ Config.bufLen) (s : State) :
    exec (.icmpDecode ([type, code] ++ u16 v ++ data)) s = .next { s with
      command := none, response := some { status := .ok, result := some (.icmp ⟨type, code, v, data⟩) } } := by
  rw [exec_icmpDecode_image type code v hb, if_neg (not_not.2 hsum)]
  rfl

/-- A fresh checksum validates (R84, R107). -/
theorem sum16_icmpImage_fresh (type code : Byte) (data : Bytes) :
    sum16 ([type, code] ++ u16 (checksum ([type, code] ++ u16 0#16 ++ data) 0#32) ++ data) 0#32 = 0xFFFF#16 := by
  have hl : 2 + 2 ≤ ([type, code] ++ u16 0#16 ++ data).length := by simp
  have hok := csumOk_fill (o := 2) rfl hl 0#32
  rwa [fill_eq hl, memWrite16_icmpImage, memWrite16_icmpImage, csumOk_iff_sum16] at hok

theorem icmpEncode_icmpParse {b : Bytes} (hl : 4 ≤ b.length) : icmpEncode (icmpParse b) = b := by
  simp (disch := omega) only [icmpEncode, icmpParse, u8_byteAt, u16_be16, slice_append_slice]
  exact List.take_append_drop 4 b

/-- A message that ICMP_DECODE accepts is the image of the record it answers, and validates (R105, R108). -/
theorem icmpDecode_accepts {b : Bytes} {h : Icmpv4Header} (hr : icmpDecode b = { status := .ok, result := some (.icmp h) }) :
    [h.type, h.code] ++ u16 h.checksum ++ h.data = b ∧ csumOk b 0#32 = true := by
  have hok : (icmpDecode b).status = .ok := congrArg Response.status hr
  obtain ⟨hl, hc⟩ := icmpDecode_ok hok
  have haccept : icmpDecode b = okWith (.icmp (icmpParse b)) :=
    responseTo_eq_accepted (i := .icmpDecode b) (s := State.reset) hok
  obtain rfl : h = icmpParse b := by simpa [okWith] using congrArg Response.result (hr.symm.trans haccept)
  refine ⟨?_, hc⟩
  have himage := icmpEncode_icmpParse hl
  rwa [icmpEncode, u8_eq, u8_eq] at himage

/-- Settles O33: `exec_icmpDecode_of_sum16` for a record, with its own checksum or a fresh one, and `icmpDecode_accepts` for a
message. -/
theorem icmpRoundTrip : Obligations.IcmpRoundTrip := by
  refine ⟨fun h s hb hsum => ⟨_, (exec_icmpEncode h h.checksum s).2 hb, exec_icmpDecode_of_sum16 hsum hb⟩,
    fun h s hb => ⟨_, ?_, exec_icmpDecode_of_sum16 (sum16_icmpImage_fresh h.type h.code h.data) hb⟩, fun b h s t hexec => ?_⟩
  · rw [exec_icmpEncodeFill]
    exact (exec_icmpEncode h _ s).2 hb
  · obtain ⟨hwf, hr⟩ := responseTo_of_exec hexec rfl
    obtain ⟨rfl, hc⟩ := icmpDecode_accepts hr
    have hb : 4 + h.data.length ≤ Config.bufLen := by
      simpa +arith [Instr.wellFormed, fitsBuffer] using hwf
    have hencode := (exec_icmpEncode h h.checksum t).2 hb
    refine ⟨hencode, fun hne => ?_⟩
    have hfresh := eq_checksum_of_csumOk rfl (by simp) (memWrite16_icmpImage ..) hc hne
    rw [memWrite16_icmpImage] at hfresh
    rw [exec_icmpEncodeFill, ← hfresh]
    exact hencode

end Sys2Proof.Proofs

/-!
The TCP codec (R110 to R117). Decoding drops the reserved nibble, so a decoder is described on the fixed image with any value in it
(`tcpImage`), and encoding is the image with 0 (`tcp20_eq`). The two decoders share `tcpSplit`, which gives a consistent record back
from its own image (`tcpSplit_tcpEncode`). Under a pseudo-header a segment is valid when a plain sum is a multiple of 0xFFFF
(`csumOk_tcpCarry`), and no flipped address bit moves that sum by such a multiple.
-/

namespace Sys2Proof.Proofs

open Sys2Proof.Machine Sys2Proof.Safety

/-! ### The fixed image, its reserved nibble and its checksum field -/

/-- The fixed image of a record with the reserved nibble r on the wire (R64). -/
def tcpImage (h : TcpHeader) (r : BitVec 4) : Bytes :=
  u16 h.srcPort ++ u16 h.dstPort ++ u32 h.seq ++ u32 h.ack ++ u8 (packNibbles h.dataOffset r) ++ u8 h.flags ++ u16 h.window
    ++ u16 h.checksum ++ u16 h.urgentPtr

/-- The encoders write the reserved nibble as 0 (R114). -/
theorem tcp20_eq (h : TcpHeader) : tcp20 h = tcpImage h 0#4 := rfl

@[simp] theorem tcpImage_length (h : TcpHeader) (r : BitVec 4) : (tcpImage h r).length = 20 := by simp [tcpImage]

/-- Clearing the reserved bits of byte 12 is writing the nibble as 0. -/
theorem packNibbles_and_f0 (n r : BitVec 4) : packNibbles n r &&& 0xF0#8 = packNibbles n 0#4 := by
  have hmask : (0xF0#8 : Byte) = 0xF#4 ++ 0#4 := rfl
  have hones : n &&& 0xF#4 = n := BitVec.and_allOnes
  rw [packNibbles, hmask, BitVec.and_append, hones, BitVec.and_zero]
  rfl

theorem modify_append_of_le {p q : Bytes} {i : Nat} (h : p.length ≤ i) (f : Byte → Byte) :
    (p ++ q).modify i f = p ++ q.modify (i - p.length) f := by
  obtain ⟨n, rfl⟩ := Nat.exists_eq_add_of_le h
  rw [Nat.add_sub_cancel_left]
  induction p with
  | nil => simp
  | cons x p ih => simpa [Nat.succ_add] using ih

theorem modify_u8_append (v : Byte) (q : Bytes) (f : Byte → Byte) : (u8 v ++ q).modify 0 f = u8 (f v) ++ q := by simp

/-- A segment with its reserved nibble cleared (R117). -/
theorem modify_tcpImage_append (h : TcpHeader) (r : BitVec 4) (rest : Bytes) :
    (tcpImage h r ++ rest).modify 12 (fun x => x &&& 0xF0#8) = tcp20 h ++ rest := by
  simp only [tcp20_eq, tcpImage, List.append_assoc, modify_append_of_le, modify_u8_append, packNibbles_and_f0, u16_length,
    u32_length, Nat.reduceLeDiff, Nat.reduceSub, le_refl]

theorem memWrite16_tcpEncode (h : TcpHeader) (v : BitVec 16) :
    memWrite16 (tcpEncode h) 16 v = tcpEncode { h with checksum := v } := by
  simp only [tcpEncode, tcp20, List.append_assoc _ h.options, List.append_assoc _ (u16 h.urgentPtr) (h.options ++ h.payload)]
  exact memWrite16_append (by simp) _ _ _

/-! ### Parsing an image, and imaging a parse -/

theorem tcpHeaderLength_tcpImage_append (h : TcpHeader) (r : BitVec 4) (rest : Bytes) :
    tcpHeaderLength (tcpImage h r ++ rest) = headerLength h.dataOffset := by
  simp only [tcpHeaderLength, tcpImage, List.append_assoc, byteAt_append_of_le, byteAt_u8_append, u16_length, u32_length,
    highNibble_packNibbles, Nat.reduceLeDiff, Nat.reduceSub, le_refl]

theorem tcpParse_tcpImage_append (h : TcpHeader) (r : BitVec 4) (rest : Bytes) {hl : Nat} (hhl : 20 ≤ hl) :
    tcpParse (tcpImage h r ++ rest) hl = { h with options := rest.take (hl - 20), payload := rest.drop (hl - 20) } := by
  have hoptions : slice (tcpImage h r ++ rest) 20 hl = rest.take (hl - 20) := by
    rw [slice_append_of_le (by simp), tcpImage_length]
    rfl
  have hpayload : (tcpImage h r ++ rest).drop hl = rest.drop (hl - 20) := by
    rw [drop_append_of_le (by simpa using hhl), tcpImage_length]
  rw [tcpParse, hoptions, hpayload]
  simp only [tcpImage, List.append_assoc, byteAt_append_of_le, be16_append_of_le, be32_append_of_le, byteAt_u8_append,
    be16_u16_append, be32_u32_append, u8_length, u16_length, u32_length, highNibble_packNibbles, Nat.reduceLeDiff,
    Nat.reduceSub, le_refl]

/-- The check and the result the two decoders share, on an image and what follows it (R111, R112). -/
theorem tcpSplit_tcpImage_append (h : TcpHeader) (r : BitVec 4) (rest : Bytes) :
    tcpSplit (tcpImage h r ++ rest) =
      if 20 + rest.length < headerLength h.dataOffset then raise .truncatedInput
      else okWith (.tcp { h with
        options := rest.take (h.dataOffset.toNat * 4 - 20), payload := rest.drop (h.dataOffset.toNat * 4 - 20) }) := by
  rw [tcpSplit, tcpHeaderLength_tcpImage_append, tcpParse_tcpImage_append h r rest (le_headerLength _), headerLength_sub,
    List.length_append, tcpImage_length]

/-- Consistency does not look at the checksum. -/
theorem tcpConsistent_checksum (h : TcpHeader) (v : BitVec 16) : tcpConsistent { h with checksum := v } ↔ tcpConsistent h := Iff.rfl

/-- A consistent record comes back from its own bytes (R117). -/
theorem tcpSplit_tcpEncode {h : TcpHeader} (hcons : tcpConsistent h) : tcpSplit (tcpEncode h) = okWith (.tcp h) := by
  have hhl : headerLength h.dataOffset = 20 + h.options.length := headerLength_of_consistent hcons
  have hopts : h.dataOffset.toNat * 4 - 20 = h.options.length := by rw [← headerLength_sub, hhl, Nat.add_sub_cancel_left]
  have hrest : (h.options ++ h.payload).length = h.options.length + h.payload.length := List.length_append
  have hfull : ¬20 + (h.options ++ h.payload).length < headerLength h.dataOffset := by omega
  rw [tcpEncode, tcp20_eq, List.append_assoc, tcpSplit_tcpImage_append, if_neg hfull, hopts, List.take_left, List.drop_left]

/-- The record of a segment, with the nibble the record has no field for, is the segment (R111). -/
theorem tcpImage_tcpParse_append {b : Bytes} (hl : 20 ≤ b.length) {n : Nat} (hn : 20 ≤ n) :
    tcpImage (tcpParse b n) (lowNibble (byteAt b 12)) ++ ((tcpParse b n).options ++ (tcpParse b n).payload) = b := by
  have himage : tcpImage (tcpParse b n) (lowNibble (byteAt b 12)) = slice b 0 20 := by
    simp only [tcpImage, tcpParse, packNibbles_split]
    simp (disch := omega) only [u8_byteAt, u16_be16, u32_be32, slice_append_slice]
  rw [himage, ← List.append_assoc]
  simp only [tcpParse]
  rw [slice_append_slice b (Nat.zero_le 20) hn]
  exact List.take_append_drop n b

/-! ### TCP_DECODE (R111, R112) -/

theorem exec_tcpDecode_of_le {b : Bytes} (hl : 20 ≤ b.length) (hb : b.length ≤ Config.bufLen) (s : State) :
    exec (.tcpDecode b) s = .next { s with command := none, response := some (tcpSplit b) } :=
  lengthChecked_accepts hl hb _ s

/-- Settles O34: `lengthChecked_rejects`, and `tcpSplit_tcpImage_append` on the record whose image the explicit bytes are. -/
theorem tcpDecodeSplitsUnchecked : Obligations.TcpDecodeSplitsUnchecked := by
  refine ⟨fun _ => rfl, fun b s => lengthChecked_rejects (by decide) _ s,
    fun b0 b1 b2 b3 b4 b5 b6 b7 b8 b9 b10 b11 b12 b13 b14 b15 b16 b17 b18 b19 rest s hb => ?_⟩
  have himage : [b0, b1, b2, b3, b4, b5, b6, b7, b8, b9, b10, b11, b12, b13, b14, b15, b16, b17, b18, b19] = tcpImage
      ⟨b0 ++ b1, b2 ++ b3, b4 ++ b5 ++ b6 ++ b7, b8 ++ b9 ++ b10 ++ b11, highNibble b12, b13, b14 ++ b15, b16 ++ b17, b18 ++ b19,
        [], []⟩ (lowNibble b12) := by
    simp only [tcpImage, packNibbles_split, u8_eq, u16_bytes, u32_bytes]
    rfl
  rw [himage, exec_tcpDecode_of_le (by simp) (by simpa using hb), tcpSplit_tcpImage_append]
  rfl

/-- A segment that TCP_DECODE accepts is its record's image with some reserved nibble, and what follows it. -/
theorem tcpDecode_accepts {b : Bytes} {h : TcpHeader} (hr : tcpDecode b = { status := .ok, result := some (.tcp h) }) :
    tcpImage h (lowNibble (byteAt b 12)) ++ (h.options ++ h.payload) = b := by
  have hok : (tcpDecode b).status = .ok := congrArg Response.status hr
  have haccept : tcpDecode b = okWith (.tcp (tcpParse b (tcpHeaderLength b))) :=
    responseTo_eq_accepted (i := .tcpDecode b) (s := State.reset) hok
  obtain rfl : h = tcpParse b (tcpHeaderLength b) := by
    simpa [okWith] using congrArg Response.result (hr.symm.trans haccept)
  rw [tcpDecode, status_check_eq_ok (by decide)] at hok
  obtain ⟨hl, -⟩ := hok
  exact tcpImage_tcpParse_append (Nat.le_of_not_lt hl) (le_headerLength _)

/-! ### TCP_ENCODE (R114, R115) -/

theorem exec_tcpEncode (h : TcpHeader) (s : State) :
    (Config.bufLen < 20 + h.options.length + h.payload.length → exec (.tcpEncode h) s = .refused .oversize) ∧
    (20 + h.options.length + h.payload.length ≤ Config.bufLen → exec (.tcpEncode h) s = .next { s with
      command := none, response := some { status := .ok, result := some (.bytes (tcpEncode h)) } }) :=
  tcpEncode_length h ▸ admitLength_respond _ (okWith (.bytes (tcpEncode h))) s

/-- Settles O37: `exec_tcpEncode`; a one-byte field is its own image. -/
theorem tcpEncodeIsVerbatim : Obligations.TcpEncodeIsVerbatim :=
  ⟨fun _ => rfl, fun h => by simp [tcp20, packNibbles], exec_tcpEncode⟩

/-! ### The segment length and the pseudo-header (R66, R78, R110) -/

/-- A segment without a length word is refused, by BUF_LEN's name where that refuses it too (R132, R134). -/
theorem admitLength_admitSegment_of_lt {n : Nat} (h : 0xFFFF < n) (go : Out) :
    admitLength n (admitSegment n go) = .refused (if Config.bufLen < n then .oversize else .segmentTooLong) := by
  rw [admitSegment_of_lt h]
  split
  · next hlt => exact admitLength_of_lt hlt _
  · next hle => exact admitLength_of_le (Nat.le_of_not_lt hle) _

theorem tcpCarry_eq (src dst : Ip) (n : Nat) : tcpCarry src dst n = BitVec.ofNat 32 (pseudo src dst (BitVec.ofNat 16 n)).toNat :=
  (BitVec.ofNat_toNat ..).symm

theorem tcpCarry_comm (src dst : Ip) (n : Nat) : tcpCarry src dst n = tcpCarry dst src n := by
  rw [tcpCarry, tcpCarry, pseudo_comm]

/-- Validity under a pseudo-header, as a plain sum: 2^16 is 1 modulo 0xFFFF, so an address counts as its own number. -/
theorem csumOk_tcpCarry {b : Bytes} {src dst : Ip} {n : Nat} :
    csumOk b (tcpCarry src dst n) = true ↔ 0xFFFF ∣ src.toNat + dst.toNat + 6 + n % 2 ^ 16 + wordSum b := by
  have hlt := pseudoSum_lt src dst (BitVec.ofNat 16 n)
  have hcarry : tcpCarry src dst n = BitVec.ofNat 32 (fold (pseudoSum src dst (BitVec.ofNat 16 n))) := by
    rw [tcpCarry_eq, pseudo_eq, BitVec.toNat_ofNat, Nat.mod_eq_of_lt (fold_lt _)]
  rw [hcarry, csumOk_iff_sum16, sum16_fold_carry b hlt, ← csumOk_iff_sum16, csumOk_iff, BitVec.toNat_ofNat, Nat.mod_eq_of_lt hlt,
    pseudoSum, BitVec.toNat_ofNat]
  omega

theorem not_ffff_dvd_two_pow (j : Nat) : ¬0xFFFF ∣ 2 ^ j := fun h =>
  absurd (Nat.eq_one_of_dvd_coprimes (Nat.Coprime.pow_right j (by decide)) dvd_rfl h) (by decide)

/-- A flipped bit of an address moves the sum by a power of two. -/
theorem csumOk_flip_src {b : Bytes} {src dst : Ip} {n j : Nat} (hj : j < 32) (h : csumOk b (tcpCarry src dst n) = true) :
    csumOk b (tcpCarry (src ^^^ BitVec.twoPow 32 j) dst n) = false := by
  have hflip : (src ^^^ BitVec.twoPow 32 j).toNat = src.toNat ^^^ 2 ^ j := by
    rw [BitVec.toNat_xor, BitVec.toNat_twoPow, Nat.mod_eq_of_lt (Nat.pow_lt_pow_right (by decide) hj)]
  rw [← Bool.not_eq_true, csumOk_tcpCarry, hflip]
  rw [csumOk_tcpCarry] at h
  have hmoved := xor_two_pow_cases src.toNat j
  have hndvd := not_ffff_dvd_two_pow j
  omega

/-! ### TCP_DECODE_CHECK (R113) -/

theorem exec_tcpDecodeCheck_of_le {b : Bytes} (hl : 20 ≤ b.length) (hb : b.length ≤ Config.bufLen) (hseg : b.length ≤ 0xFFFF)
    (src dst : Ip) (s : State) :
    exec (.tcpDecodeCheck b src dst) s = .next { s with command := none, response := some (tcpVerified b src dst) } := by
  rw [exec, execTcpDecodeCheck, admitLength_of_le hb, if_neg (Nat.not_lt.2 hl), admitSegment_of_le hseg]
  rfl

theorem tcpVerified_of_csumOk {b : Bytes} {src dst : Ip} (h : csumOk b (tcpCarry src dst b.length) = true) :
    tcpVerified b src dst = tcpSplit b := if_neg (by simp [h])

theorem tcpVerified_of_not_csumOk {b : Bytes} {src dst : Ip} (h : csumOk b (tcpCarry src dst b.length) = false) :
    tcpVerified b src dst = raise .invalidChecksum := if_pos h

theorem exec_tcpDecodeCheck_of_not_csumOk {b : Bytes} {src dst : Ip} (hl : 20 ≤ b.length) (hb : b.length ≤ Config.bufLen)
    (hseg : b.length ≤ 0xFFFF) (hc : csumOk b (tcpCarry src dst b.length) = false) (s : State) :
    exec (.tcpDecodeCheck b src dst) s = .next { s with command := none, response := some { status := .invalidChecksum } } := by
  rw [exec_tcpDecodeCheck_of_le hl hb hseg, tcpVerified_of_not_csumOk hc]
  rfl

theorem highNibble_toNat (x : Byte) : (highNibble x).toNat = x.toNat / 16 := by
  rw [highNibble, BitVec.extractLsb'_toNat, Nat.shiftRight_eq_div_pow, Nat.mod_eq_of_lt (by omega)]

/-- Of a segment that holds the fixed bytes, the header length is the one byte 12 states (R68). -/
theorem lt_tcpHeaderLength {b : Bytes} (hl : 20 ≤ b.length) :
    b.length < tcpHeaderLength b ↔ b.length < (b.getD 12 0#8).toNat / 16 * 4 := by
  have hbyte : highNibble (byteAt b 12) = highNibble (b.getD 12 0#8) := rfl
  rw [tcpHeaderLength, headerLength, hbyte, highNibble_toNat]
  omega

/-- Settles O35: the refusals and the length check in order, then `tcpVerified` and the checks it shares with TCP_DECODE. -/
theorem tcpDecodeCheckValidatesFirst : Obligations.TcpDecodeCheckValidatesFirst := by
  refine ⟨fun _ => rfl, fun b src dst s => ⟨fun h => admitLength_of_lt h _, fun h => ?_, fun h => ?_, fun hl hb hseg => ?_⟩⟩
  · rw [exec, execTcpDecodeCheck, if_neg (by omega)]
    exact admitLength_admitSegment_of_lt h _
  · have hbuf := le_bufLen
    rw [exec, execTcpDecodeCheck, if_pos h, admitLength_of_le (by omega)]
    rfl
  · rw [← tcpCarry_eq, ← csumOk_iff_sum16, ne_eq, ← csumOk_iff_sum16, Bool.not_eq_true]
    refine ⟨fun hc => exec_tcpDecodeCheck_of_not_csumOk hl hb hseg hc s, fun hc => ?_⟩
    rw [exec_tcpDecodeCheck_of_le hl hb hseg, exec_tcpDecode_of_le hl hb, tcpVerified_of_csumOk hc, tcpSplit]
    refine ⟨fun hlt => ?_, fun hle => ⟨tcpParse b (tcpHeaderLength b), ?_⟩⟩
    · rw [if_pos ((lt_tcpHeaderLength hl).2 hlt)]
      rfl
    · rw [if_neg (mt (lt_tcpHeaderLength hl).1 (Nat.not_lt.2 hle))]
      exact ⟨rfl, rfl⟩

/-- A segment that TCP_DECODE_CHECK accepts passed the length and the checksum test. -/
theorem tcpDecodeCheck_ok {b : Bytes} {src dst : Ip} {s : State} (h : (responseTo (.tcpDecodeCheck b src dst) s).status = .ok) :
    20 ≤ b.length ∧ csumOk b (tcpCarry src dst b.length) = true := by
  rw [responseTo, status_check_eq_ok (by decide), tcpVerified, status_check_eq_ok (by decide)] at h
  obtain ⟨hl, hc, -⟩ := h
  exact ⟨Nat.le_of_not_lt hl, by simpa using hc⟩

/-- Settles O36: the carry is symmetric in the addresses, and neither a flip in the segment (`csumOk_flipBit`) nor one in an address
(`csumOk_flip_src`) leaves it valid. -/
theorem tcpCheckDetectsSingleBitFlips : Obligations.TcpCheckDetectsSingleBitFlips := by
  refine ⟨fun b src dst s => ?_, fun b src dst h s t hexec => ?_⟩
  · rw [exec, exec, execTcpDecodeCheck, execTcpDecodeCheck, tcpVerified, tcpVerified, tcpCarry_comm]
  · obtain ⟨hwf, hr⟩ := responseTo_of_exec hexec rfl
    obtain ⟨hl, hc⟩ := tcpDecodeCheck_ok (congrArg Response.status hr)
    obtain ⟨hb, hseg⟩ : b.length ≤ Config.bufLen ∧ b.length ≤ 0xFFFF := by
      simpa [Instr.wellFormed, fitsBuffer, fitsSegment] using hwf
    refine ⟨fun i j hi hj => ?_, fun j hj => ?_, fun j hj => ?_⟩
    · exact exec_tcpDecodeCheck_of_not_csumOk (by simpa using hl) (by simpa using hb) (by simpa using hseg)
        (by simpa using csumOk_flipBit hi hj hc) t
    · exact exec_tcpDecodeCheck_of_not_csumOk hl hb hseg (csumOk_flip_src hj hc) t
    · rw [tcpCarry_comm] at hc
      have hflip := csumOk_flip_src (dst := src) hj hc
      rw [tcpCarry_comm] at hflip
      exact exec_tcpDecodeCheck_of_not_csumOk hl hb hseg hflip t

/-! ### TCP_ENCODE_FILL (R116) -/

/-- The checksum that TCP_ENCODE_FILL writes: of the segment with the field zeroed, under its pseudo-header (R116). -/
def tcpFreshChecksum (h : TcpHeader) (src dst : Ip) : BitVec 16 :=
  checksum (tcpEncode { h with checksum := 0#16 })
    (BitVec.ofNat 32 (pseudo src dst (BitVec.ofNat 16 (20 + h.options.length + h.payload.length))).toNat)

/-- Filling is encoding the record with the fresh checksum. -/
theorem tcpEncodeFill_eq (h : TcpHeader) (src dst : Ip) :
    tcpEncodeFill h src dst = tcpEncode { h with checksum := tcpFreshChecksum h src dst } := by
  rw [tcpEncodeFill, fill_eq (by simp; omega), memWrite16_tcpEncode, memWrite16_tcpEncode, tcpEncode_length, tcpCarry_eq]
  rfl

theorem exec_tcpEncodeFill_of_le {h : TcpHeader} (hb : 20 + h.options.length + h.payload.length ≤ Config.bufLen)
    (hseg : 20 + h.options.length + h.payload.length ≤ 0xFFFF) (src dst : Ip) (s : State) :
    exec (.tcpEncodeFill h src dst) s = .next { s with
      command := none
      response := some {
        status := .ok, result := some (.bytes (tcpEncode { h with checksum := tcpFreshChecksum h src dst })) } } := by
  rw [exec, execTcpEncodeFill, tcpEncodeFill_length, admitLength_of_le hb, admitSegment_of_le hseg, tcpEncodeFill_eq]
  rfl

/-- Settles O38: the two refusals in order, then `exec_tcpEncodeFill_of_le`. -/
theorem tcpEncodeFillWritesAFreshChecksum : Obligations.TcpEncodeFillWritesAFreshChecksum := by
  refine ⟨fun _ => rfl, fun h src dst s n hn => ?_⟩
  obtain rfl := hn
  refine ⟨fun hlt => ?_, fun hlt => ?_, fun hb hseg => exec_tcpEncodeFill_of_le hb hseg src dst s⟩
  · rw [exec, execTcpEncodeFill, tcpEncodeFill_length, admitLength_of_lt hlt]
  · rw [exec, execTcpEncodeFill, tcpEncodeFill_length, admitLength_admitSegment_of_lt hlt]

/-- What TCP_ENCODE_FILL writes validates under the same addresses (R84, R117). -/
theorem csumOk_tcpEncode_fresh (h : TcpHeader) (src dst : Ip) :
    csumOk (tcpEncode { h with checksum := tcpFreshChecksum h src dst })
      (tcpCarry src dst (tcpEncode { h with checksum := tcpFreshChecksum h src dst }).length) = true := by
  rw [← tcpEncodeFill_eq, tcpEncodeFill_length, tcpEncodeFill, tcpEncode_length]
  exact csumOk_fill rfl (by simp; omega) _

/-! ### The round trip (R117) -/

/-- Settles O39: `tcpSplit_tcpEncode` for a record, with its own checksum or a fresh one, and `tcpDecode_accepts` for a segment. -/
theorem tcpRoundTrip : Obligations.TcpRoundTrip := by
  refine ⟨fun h s hcons hb => ⟨_, (exec_tcpEncode h s).2 hb, fun t => ?_⟩,
    fun h src dst s hcons hb hseg => ⟨_, _, exec_tcpEncodeFill_of_le hb hseg src dst s, rfl, fun t => ?_⟩,
    fun b h s t hexec => ?_⟩
  · rw [exec_tcpDecode_of_le (by simp; omega) (by simpa using hb), tcpSplit_tcpEncode hcons]
    rfl
  · rw [exec_tcpDecodeCheck_of_le (by simp; omega) (by simpa using hb) (by simpa using hseg),
      tcpVerified_of_csumOk (csumOk_tcpEncode_fresh h src dst), tcpSplit_tcpEncode ((tcpConsistent_checksum h _).2 hcons)]
    rfl
  · obtain ⟨hwf, hr⟩ := responseTo_of_exec hexec rfl
    have himage := tcpDecode_accepts hr
    have hlen : b.length = 20 + h.options.length + h.payload.length := by
      rw [← himage]
      simp +arith
    have hencode := (exec_tcpEncode h t).2 (by simpa [Instr.wellFormed, fitsBuffer, hlen] using hwf)
    have hcleared : b.modify 12 (fun x => x &&& 0xF0#8) = tcpEncode h := by
      rw [← himage, modify_tcpImage_append, tcpEncode, List.append_assoc]
    refine ⟨by rw [hcleared]; exact hencode, fun hzero => ?_⟩
    have hsame : tcpEncode h = b := by
      rw [show lowNibble (byteAt b 12) = 0#4 from hzero, ← tcp20_eq] at himage
      rw [tcpEncode, List.append_assoc, himage]
    rw [← hsame]
    exact hencode

end Sys2Proof.Proofs

/-!
The ARP table's commands (R118 to R127). A put is a set on the table that `makeRoom` leaves, so `arptGet_arptPut` and
`arptGet_makeRoom` say what every key reads after it. An overwrite of a present key is a put (`overwriteEntry_eq_putEntry`), so every
write of a command is one put (`tableEffect_cases`). ARP_PROCESS is described on the images its checks cut the frame into
(`arpInbound_image`).
-/

namespace Sys2Proof.Proofs

open Sys2Proof.Machine Sys2Proof.Safety

/-! ### A put (R118) -/

/-- The table a put writes its key into: without the drawn victim, when it draws one. -/
def makeRoom (cap : Option Nat) (draw : Nat) (t : ArpTable) (k : ArpKey) : ArpTable :=
  if putDraws cap t k then arptEvict t draw else t

section
variable {cap : Option Nat} {draw : Nat} {t : ArpTable} {k : ArpKey} {m : Mac}

theorem arptPut_eq_arptSet : arptPut cap draw t k m = arptSet (makeRoom cap draw t k) k m := by
  rw [arptPut, makeRoom]
  split <;> rfl

theorem arptGet_arptPut (k' : ArpKey) :
    arptGet (arptPut cap draw t k m) k' = if k' = k then some m else arptGet (makeRoom cap draw t k) k' := by
  rw [arptPut_eq_arptSet, arptGet_arptSet]

/-- A present key, or room below the capacity, and no victim is drawn. -/
theorem not_putDraws_iff : ¬putDraws cap t k = true ↔ arptGet t k ≠ none ∨ ∀ n ∈ cap, t.length < n := by
  rw [putDraws_iff, not_and_or]
  simp

theorem makeRoom_of_not_putDraws (h : ¬putDraws cap t k = true) : makeRoom cap draw t k = t := if_neg h

/-- Evicting takes out the key at the drawn place and no other. -/
theorem arptGet_arptEvict (hwf : ArpTable.wf t) (hpos : 0 < t.length) (draw : Nat) :
    ∃ v, arptGet t v ≠ none ∧ arptGet (arptEvict t draw) v = none ∧
      ∀ k', k' ≠ v → arptGet (arptEvict t draw) k' = arptGet t k' := by
  have hplace : draw % t.length < t.length := Nat.mod_lt _ hpos
  obtain ⟨hgone, hother⟩ := arptGet_eraseIdx hwf _ hplace
  exact ⟨_, fun habsent => arptGet_eq_none.1 habsent _ (List.getElem_mem hplace) rfl, hgone, hother⟩

/-- Each present key is the victim of the draw that is its place. -/
theorem exists_draw_of_arptGet {v : ArpKey} (hwf : ArpTable.wf t) (hv : arptGet t v ≠ none) :
    0 < t.length ∧ ∃ d, arptGet (arptEvict t d) v = none := by
  obtain ⟨n, hn, rfl⟩ := exists_index_of_arptGet hv
  refine ⟨Nat.zero_lt_of_lt hn, n, ?_⟩
  rw [arptEvict, Nat.mod_eq_of_lt hn]
  exact (arptGet_eraseIdx hwf n hn).1

/-- Making room takes no key in, and changes no MAC. -/
theorem arptGet_makeRoom (hwf : ArpTable.wf t) (k' : ArpKey) :
    arptGet (makeRoom cap draw t k) k' = none ∨ arptGet (makeRoom cap draw t k) k' = arptGet t k' := by
  unfold makeRoom
  split
  · rcases Nat.eq_zero_or_pos t.length with h | hpos
    · obtain rfl := List.eq_nil_of_length_eq_zero h
      exact .inl rfl
    · obtain ⟨v, -, hgone, hother⟩ := arptGet_arptEvict hwf hpos draw
      rcases eq_or_ne k' v with rfl | hne
      · exact .inl hgone
      · exact .inr (hother k' hne)
  · exact .inr rfl

/-- Evicting one entry and adding one keeps the size. -/
theorem arptPut_length_of_putDraws (hwf : ArpTable.wf t) (hpos : 0 < t.length) (h : putDraws cap t k = true) :
    (arptPut cap draw t k m).length = t.length := by
  have habsent : arptGet (makeRoom cap draw t k) k = none := by
    obtain h0 | h0 := arptGet_makeRoom (cap := cap) (draw := draw) (k := k) hwf k
    · exact h0
    · exact h0.trans ((putDraws_iff ..).1 h).1
  rw [makeRoom, if_pos h] at habsent
  have hhas : ¬arptHas (arptEvict t draw) k = true := by simpa [arptHas_iff] using habsent
  rw [arptPut, if_pos h, arptSet_length (arptEvict_wf hwf draw), if_neg hhas, arptEvict_length hpos]
  omega

end

/-- Settles O40: `arptGet_arptPut`, with the table as it was where no victim is drawn and less the victim where one is. -/
theorem putWritesItsKeyAndEvictsAtMostOne : Obligations.PutWritesItsKeyAndEvictsAtMostOne := by
  intro cap draw t k m hwf hcap
  have hpos : (∃ n ∈ cap, n ≤ t.length) → 0 < t.length := fun ⟨n, hn, hle⟩ => Nat.lt_of_lt_of_le (hcap n hn) hle
  refine ⟨arptPut_wf hwf .., arptGet_arptPut_self .., fun hkeep k' hne => ?_, fun hdraw => ?_, fun hdraw v hv => ?_⟩
  · rw [arptGet_arptPut, if_neg hne, makeRoom_of_not_putDraws (not_putDraws_iff.2 hkeep)]
  · obtain ⟨v, hv, hgone, hother⟩ := arptGet_arptEvict hwf (hpos hdraw.2) draw
    have hvk : v ≠ k := fun h => hv (h ▸ hdraw.1)
    have hread : ∀ k', k' ≠ k → arptGet (arptPut cap draw t k m) k' = arptGet (arptEvict t draw) k' := fun k' hne => by
      rw [arptGet_arptPut, if_neg hne, makeRoom, if_pos ((putDraws_iff ..).2 hdraw)]
    exact ⟨v, hv, hvk, (hread v hvk).trans hgone, fun k' hne hnv => (hread k' hne).trans (hother k' hnv)⟩
  · obtain ⟨hlen, d, hgone⟩ := exists_draw_of_arptGet hwf hv
    have hvk : v ≠ k := fun h => hv (h ▸ hdraw.1)
    have hputs := (putDraws_iff ..).2 hdraw
    refine ⟨d, ?_, arptPut_length_of_putDraws hwf hlen hputs⟩
    rw [arptGet_arptPut, if_neg hvk, makeRoom, if_pos hputs, hgone]

/-! ### ARP_LOOKUP, ARP_UPDATE, ARP_INSERT and ARP_MERGE (R119 to R122, R125) -/

section
variable {ptype : BitVec 16} {ip : Ip} {mac : Mac} {s : State}

theorem exec_arpLookup_of_present (h : arptGet s.arpt ⟨0x0800#16, ip⟩ = some mac) :
    exec (.arpLookup ip) s = respond (okWith (.mac mac)) s := by
  rw [exec, execArpLookup, h]

theorem exec_arpLookup_of_absent (h : arptGet s.arpt ⟨0x0800#16, ip⟩ = none) :
    exec (.arpLookup ip) s = respond (raise .unresolvedAddress) s := by
  rw [exec, execArpLookup, h]

theorem exec_arpUpdate_of_absent (h : arptGet s.arpt ⟨ptype, ip⟩ = none) (mac : Mac) :
    exec (.arpUpdate ptype ip mac) s = respond { okEmpty with matched := some false } s := by
  rw [exec, execArpUpdate, if_neg (by simp [arptHas_iff, h])]

theorem exec_arpUpdate_of_present (h : arptGet s.arpt ⟨ptype, ip⟩ ≠ none) (mac : Mac) :
    exec (.arpUpdate ptype ip mac) s =
      respond { okEmpty with matched := some true } (overwriteEntry ⟨ptype, ip⟩ mac s) := by
  rw [exec, execArpUpdate, if_pos ((arptHas_iff ..).2 h)]

end

/-- After an overwrite the key holds the MAC written. -/
theorem arptGet_overwriteEntry_self (k : ArpKey) (m : Mac) (s : State) : arptGet (overwriteEntry k m s).arpt k = some m := by
  rw [overwriteEntry_arpt, arptGet_arptSet, if_pos rfl]

theorem arptGet_putEntry_self (k : ArpKey) (m : Mac) (s : State) : arptGet (putEntry k m s).arpt k = some m :=
  arptGet_arptPut_self ..

/-- A put of a present key draws no victim, so it only overwrites. -/
theorem overwriteEntry_eq_putEntry {k : ArpKey} {s : State} (h : arptGet s.arpt k ≠ none) (m : Mac) :
    overwriteEntry k m s = putEntry k m s := by
  have hkeep : ¬putDraws Config.arpCapacity s.arpt k = true := not_putDraws_iff.2 (.inl h)
  rw [overwriteEntry, putEntry, arptPut, if_neg hkeep, if_neg hkeep]

/-- Settles O41: `exec_arpLookup_of_present` and `exec_arpLookup_of_absent`. -/
theorem arpLookupReadsIpv4Entries : Obligations.ArpLookupReadsIpv4Entries :=
  ⟨fun _ => rfl, fun _ _ => ⟨fun _ h => exec_arpLookup_of_present h, fun h => exec_arpLookup_of_absent h⟩⟩

/-- Settles O42: `exec_arpUpdate_of_absent` and `exec_arpUpdate_of_present`, whose table is a set of the key. -/
theorem arpUpdateOverwritesOnlyOnAHit : Obligations.ArpUpdateOverwritesOnlyOnAHit := by
  refine ⟨fun _ => rfl, fun ptype ip mac s => ⟨fun h => exec_arpUpdate_of_absent h mac, fun h => ?_⟩⟩
  refine ⟨arptSet s.arpt ⟨ptype, ip⟩ mac, exec_arpUpdate_of_present h mac, arptGet_overwriteEntry_self _ mac s,
    fun k hk => ?_, fun hwf => ⟨arptSet_wf hwf .., ?_⟩⟩
  · rw [arptGet_arptSet, if_neg hk]
  · rw [arptSet_length hwf, if_pos ((arptHas_iff ..).2 h)]

/-- Settles O43: the command is the put of `putEntry`. -/
theorem arpInsertPutsUnconditionally : Obligations.ArpInsertPutsUnconditionally :=
  ⟨fun _ => rfl, fun _ _ _ _ => ⟨_, _, _, rfl, rfl, arptGet_arptPut_self ..⟩⟩

/-- Settles O44: the put of `putEntry`; on a hit ARP_UPDATE's overwrite is that put, and on a miss ARP_UPDATE leaves ARP_INSERT the
same table and the same draw. -/
theorem arpMergeReportsThePriorPresence : Obligations.ArpMergeReportsThePriorPresence := by
  refine ⟨fun _ => rfl, fun _ _ _ _ => ⟨_, _, _, rfl, rfl, arptGet_arptPut_self ..⟩, fun ptype ip mac s => ?_⟩
  rcases eq_or_ne (arptGet s.arpt ⟨ptype, ip⟩) none with h | h
  · exact ⟨_, _, _, rfl, exec_arpUpdate_of_absent h mac, rfl, fun hne => absurd h hne, fun _ => rfl⟩
  · refine ⟨_, _, _, rfl, exec_arpUpdate_of_present h mac, rfl, fun _ => ?_, fun heq => absurd heq h⟩
    rw [overwriteEntry_eq_putEntry h]
    rfl

/-- Settles O46: a miss is `exec_arpUpdate_of_absent`; the insert makes the key present, so the update overwrites, and the lookup reads
what it wrote. -/
theorem updateAfterInsertIsWhatLookupReads : Obligations.UpdateAfterInsertIsWhatLookupReads := by
  refine fun p ip m1 m2 s => ⟨fun h => exec_arpUpdate_of_absent h m2, ?_⟩
  have hpresent : arptGet (answer okEmpty (putEntry ⟨p, ip⟩ m1 s)).arpt ⟨p, ip⟩ ≠ none := by
    rw [answer_arpt, arptGet_putEntry_self]
    exact Option.some_ne_none m1
  refine ⟨_, _, rfl, exec_arpUpdate_of_present hpresent m2, rfl, ?_⟩
  rintro rfl
  exact exec_arpLookup_of_present (arptGet_overwriteEntry_self ..)

/-! ### How entries leave and change (R127) -/

/-- The command writes the MAC m under the key k: by name, or as the sender of an inbound message (R23). -/
def writesEntry (i : Instr) (k : ArpKey) (m : Mac) : Prop :=
  i = .arpUpdate k.ptype k.ip m ∨ i = .arpInsert k.ptype k.ip m ∨ i = .arpMerge k.ptype k.ip m ∨
    ∃ (b : Bytes) (msg : ArpMessage) (a : ArpIPv4Body), i = .arpProcess b ∧ arpInbound b = .ok (msg, a) ∧
      senderKey msg a = k ∧ a.senderMac = m

/-- A command leaves the table alone or makes one put, of an entry it writes. -/
theorem tableEffect_cases (i : Instr) (s : State) :
    tableEffect i s = s ∨ ∃ k m, writesEntry i k m ∧ tableEffect i s = putEntry k m s := by
  cases i with
  | arpUpdate ptype ip mac =>
    simp only [tableEffect]
    split
    · next h => exact .inr ⟨_, _, .inl rfl, overwriteEntry_eq_putEntry ((arptHas_iff ..).1 h) mac⟩
    · exact .inl rfl
  | arpInsert => exact .inr ⟨_, _, .inr (.inl rfl), rfl⟩
  | arpMerge => exact .inr ⟨_, _, .inr (.inr (.inl rfl)), rfl⟩
  | arpProcess b =>
    simp only [tableEffect]
    split
    · exact .inl rfl
    · next msg a h => exact .inr ⟨_, _, .inr (.inr (.inr ⟨b, msg, a, rfl, h, rfl, rfl⟩)), rfl⟩
  | _ => exact .inl rfl

/-- A present key stays through a put, unless a bounded table is full and the key put is new. -/
theorem arptGet_arptPut_ne_none {cap : Option Nat} {t : ArpTable} {k : ArpKey} (h : arptGet t k ≠ none) (draw : Nat)
    (k' : ArpKey) (m : Mac) : arptGet (arptPut cap draw t k' m) k ≠ none ∨
      ∃ n ∈ cap, n ≤ t.length ∧ arptGet t k' = none := by
  by_cases hdraw : putDraws cap t k' = true
  · obtain ⟨habsent, n, hn, hle⟩ := (putDraws_iff ..).1 hdraw
    exact .inr ⟨n, hn, hle, habsent⟩
  · rw [arptGet_arptPut, makeRoom_of_not_putDraws hdraw]
    split
    · exact .inl (Option.some_ne_none m)
    · exact .inl h

/-- A put changes no present key's MAC but that of the key put. -/
theorem eq_of_arptGet_arptPut {cap : Option Nat} {draw : Nat} {t : ArpTable} {k k' : ArpKey} {m m' n : Mac} (hwf : ArpTable.wf t)
    (h : arptGet t k = some m) (h' : arptGet (arptPut cap draw t k' n) k = some m') (hne : m' ≠ m) : k' = k ∧ n = m' := by
  rw [arptGet_arptPut] at h'
  split at h'
  · next hk => exact ⟨hk.symm, Option.some.inj h'⟩
  · obtain hnone | hsame := arptGet_makeRoom (cap := cap) (draw := draw) (k := k') hwf k
    · exact nomatch hnone.symm.trans h'
    · exact absurd (Option.some.inj (h'.symm.trans (hsame.trans h))) hne

/-- Settles O48: the command leaves the table alone, or makes the one put of `tableEffect_cases`. -/
theorem entriesLeaveOnlyByEviction : Obligations.EntriesLeaveOnlyByEviction := by
  intro i s t k m hexec hk
  have hpresent : arptGet s.arpt k ≠ none := hk ▸ Option.some_ne_none m
  obtain ⟨-, rfl⟩ := exec_next.1 hexec
  rw [answer_arpt]
  obtain hsame | ⟨k', n, hwrites, hput⟩ := tableEffect_cases i s
  · rw [hsame]
    exact ⟨.inl hpresent, fun _ m' h hne => absurd (Option.some.inj (h.symm.trans hk)) hne⟩
  · rw [hput]
    refine ⟨?_, fun hwf m' h hne => ?_⟩
    · obtain hstays | ⟨cap, hcap, hfull, habsent⟩ := arptGet_arptPut_ne_none hpresent (Config.victimDraw s.draws) k' n
      · exact .inl hstays
      · refine .inr ⟨cap, k', hcap, hfull, habsent, ?_⟩
        rw [arptGet_putEntry_self]
        exact Option.some_ne_none n
    · obtain ⟨rfl, rfl⟩ := eq_of_arptGet_arptPut hwf hk h hne
      exact hwrites

/-! ### ARP_PROCESS (R123, R124, R126) -/

section
variable {addresses rest : Bytes}

theorem frame_length (h : addresses.length = 12) (t : BitVec 16) : (addresses ++ u16 t ++ rest).length = 14 + rest.length := by
  simp +arith [h]

/-- The ethertype stands after the two addresses. -/
theorem be16_ethertype (h : addresses.length = 12) (t : BitVec 16) : be16 (addresses ++ u16 t ++ rest) 12 = t :=
  h ▸ be16_u16 addresses rest t

/-- What follows the Ethernet header. -/
theorem drop_ethernetHeader (h : addresses.length = 12) (t : BitVec 16) : (addresses ++ u16 t ++ rest).drop 14 = rest :=
  List.drop_left' (by simp [h])

theorem arpInbound_of_ethertype_ne (h : addresses.length = 12) {t : BitVec 16} (ht : t ≠ 0x0806#16) :
    arpInbound (addresses ++ u16 t ++ rest) = .error .unhandledEthertype := by
  rw [arpInbound, if_neg (by rw [frame_length h]; omega), be16_ethertype h, if_pos ht]

theorem arpInbound_of_lt (h : addresses.length = 12) (hlt : rest.length < 28) :
    arpInbound (addresses ++ u16 0x0806#16 ++ rest) = .error .truncatedInput := by
  rw [arpInbound, if_neg (by rw [frame_length h]; omega), be16_ethertype h, if_neg (by simp), drop_ethernetHeader h]
  split
  · rfl
  · have hbody : (arpParse rest).payload.length < 20 := by
      rw [arpParse, List.length_drop]
      omega
    rw [if_pos hbody]

end

/-- The checks find the message and the body of a frame that carries them, padded or not. -/
theorem arpInbound_image {addresses pad : Bytes} {m : ArpMessage} {a : ArpIPv4Body} (h : addresses.length = 12)
    (hpayload : m.payload = arpv4Encode a ++ pad) :
    arpInbound (addresses ++ u16 0x0806#16 ++ arpEncode m) = .ok (m, a) := by
  have hbody : ¬m.payload.length < 20 := by simp [hpayload]
  rw [arpInbound, if_neg (by rw [frame_length h]; omega), be16_ethertype h, if_neg (by simp), drop_ethernetHeader h, if_neg (by simp),
    arpParse_arpEncode, if_neg hbody, hpayload, arpv4Parse_arpv4Encode_append]

theorem exec_arpProcess_of_error {b : Bytes} {st : Status} (hb : b.length ≤ Config.bufLen) (h : arpInbound b = .error st)
    (s : State) : exec (.arpProcess b) s = respond (raise st) s := by
  rw [exec, execArpProcess, admitLength_of_le hb, h]

theorem exec_arpProcess_of_ok {b : Bytes} {m : ArpMessage} {a : ArpIPv4Body} (hb : b.length ≤ Config.bufLen)
    (h : arpInbound b = .ok (m, a)) (s : State) : exec (.arpProcess b) s =
      respond (arpProcessed Config.arpTargetCheck s.hostMac s.hostIp m a (arptHas s.arpt (senderKey m a)))
        (putEntry (senderKey m a) a.senderMac s) := by
  rw [exec, execArpProcess, admitLength_of_le hb, h]

/-- ARP_PROCESS of a frame that carries a message and a body. -/
theorem exec_arpProcess_image {addresses pad : Bytes} {m : ArpMessage} {a : ArpIPv4Body} (h : addresses.length = 12)
    (hpayload : m.payload = arpv4Encode a ++ pad) (hb : 42 + pad.length ≤ Config.bufLen) (s : State) :
    exec (.arpProcess (addresses ++ u16 0x0806#16 ++ arpEncode m)) s =
      respond (arpProcessed Config.arpTargetCheck s.hostMac s.hostIp m a (arptHas s.arpt (senderKey m a)))
        (putEntry (senderKey m a) a.senderMac s) := by
  refine exec_arpProcess_of_ok ?_ (arpInbound_image h hpayload) s
  have hlen : m.payload.length = 20 + pad.length := by simp [hpayload]
  rw [frame_length h, arpEncode_length]
  omega

theorem arpSupported_iff (m : ArpMessage) : arpSupported m = true ↔ m.hwType = 1#16 ∧ m.protoType = 0x0800#16 := by
  simp [arpSupported]

theorem arpAnswers_iff (tc : Bool) (ip : Ip) (m : ArpMessage) (a : ArpIPv4Body) :
    arpAnswers tc ip m a = true ↔ m.opcode = 1#16 ∧ ¬(tc = true ∧ a.targetIp ≠ ip) := by
  simp only [arpAnswers, Bool.and_eq_true, decide_eq_true_eq, Bool.not_eq_true', ← Bool.not_eq_true, and_comm]

/-- The response to an inbound message (R124): what it supports decides the status, and what it answers the frame. -/
theorem arpProcessed_eq (tc : Bool) (mac : Mac) (ip : Ip) (m : ArpMessage) (a : ArpIPv4Body) (hit : Bool) :
    arpProcessed tc mac ip m a hit =
      if arpSupported m = true then
        { okWith (.reply (if arpAnswers tc ip m a = true then some (arpReplyFrame mac ip m a) else none)) with
          supported := some true, matched := some hit }
      else { raise .unsupportedLayer with supported := some false, matched := some hit } := by
  rw [arpProcessed]
  cases arpSupported m with
  | false => rfl
  | true => cases arpAnswers tc ip m a <;> rfl

/-- A one-byte field is its own image. -/
theorem arpEncode_eq (m : ArpMessage) :
    arpEncode m = u16 m.hwType ++ u16 m.protoType ++ [m.hwSize, m.protoSize] ++ u16 m.opcode ++ m.payload := by
  simp [arpEncode]

/-- The reply's bytes, field by field (R123, R124). -/
theorem arpReplyFrame_eq (mac : Mac) (ip : Ip) (m : ArpMessage) (a : ArpIPv4Body) :
    arpReplyFrame mac ip m a = u48 a.senderMac ++ u48 mac ++ u16 0x0806#16 ++ u16 m.hwType ++ u16 m.protoType
      ++ [m.hwSize, m.protoSize] ++ u16 2#16 ++ u48 mac ++ u32 ip ++ u48 a.senderMac ++ u32 a.senderIp := by
  simp only [arpReplyFrame, arpEncode_eq, arpv4Encode, replyBody, List.append_assoc]

/-- Settles O45: the failed checks by `arpInbound`, and `exec_arpProcess_image` with the response of `arpProcessed_eq`. -/
theorem arpProcessMergesAndReplies : Obligations.ArpProcessMergesAndReplies := by
  refine ⟨fun _ => rfl, fun b s => ⟨fun h => admitLength_of_lt h _, fun h => ?_⟩,
    fun addresses rest t s haddr hb => ⟨fun ht => ?_, fun ht hlt => ?_⟩, fun addresses pad m a s haddr hb hpayload => ?_⟩
  · have hbuf := le_bufLen
    exact exec_arpProcess_of_error (by omega) (if_pos h) s
  · exact exec_arpProcess_of_error (frame_length haddr t ▸ hb) (arpInbound_of_ethertype_ne haddr ht) s
  · subst ht
    exact exec_arpProcess_of_error (frame_length haddr _ ▸ hb) (arpInbound_of_lt haddr hlt) s
  · rw [← arpEncode_eq, exec_arpProcess_image haddr hpayload hb, arpProcessed_eq]
    simp only [arpSupported_iff, arpAnswers_iff, arpReplyFrame_eq]
    exact ⟨_, _, rfl⟩

/-- The message a reply frame carries (R123). -/
def replyMessage (mac : Mac) (ip : Ip) (m : ArpMessage) (a : ArpIPv4Body) : ArpMessage :=
  { m with opcode := 2#16, payload := arpv4Encode (replyBody mac ip a) }

theorem arpSupported_replyMessage (mac : Mac) (ip : Ip) (m : ArpMessage) (a : ArpIPv4Body) :
    arpSupported (replyMessage mac ip m a) = arpSupported m := rfl

/-- A reply frame is an Ethernet frame to the body's sender that carries the reply message. -/
theorem arpReplyFrame_eq_ethEncode (mac : Mac) (ip : Ip) (m : ArpMessage) (a : ArpIPv4Body) :
    arpReplyFrame mac ip m a = ethEncode ⟨a.senderMac, mac, 0x0806#16, arpEncode (replyMessage mac ip m a)⟩ := rfl

/-- A supported Request for this host is answered, whatever ARP_TARGET_CHECK says. -/
theorem arpProcessed_of_request {m : ArpMessage} {a : ArpIPv4Body} {ip : Ip} (hsup : arpSupported m = true)
    (hop : m.opcode = 1#16) (htarget : a.targetIp = ip) (tc : Bool) (mac : Mac) (hit : Bool) :
    arpProcessed tc mac ip m a hit =
      { okWith (.reply (some (arpReplyFrame mac ip m a))) with supported := some true, matched := some hit } := by
  have hanswers : arpAnswers tc ip m a = true := (arpAnswers_iff ..).2 ⟨hop, fun h => h.2 htarget⟩
  rw [arpProcessed_eq, if_pos hsup, if_pos hanswers]

/-- A supported Request with a body and whatever follows it (R91, R126). -/
def requestMessage (hs ps : Byte) (a : ArpIPv4Body) (pad : Bytes) : ArpMessage :=
  ⟨1#16, 0x0800#16, hs, ps, 1#16, arpv4Encode a ++ pad⟩

theorem arpEncode_requestMessage (hs ps : Byte) (a : ArpIPv4Body) (pad : Bytes) :
    arpEncode (requestMessage hs ps a pad) = u16 1#16 ++ u16 0x0800#16 ++ [hs, ps] ++ u16 1#16 ++ u48 a.senderMac
      ++ u32 a.senderIp ++ u48 a.targetMac ++ u32 a.targetIp ++ pad := by
  simp only [requestMessage, arpEncode_eq, arpv4Encode, List.append_assoc]

/-- Settles O47: the reply is an Ethernet image of an ARP image of an ARPv4 image, and each decoder reads its own image back. -/
theorem replyDecodesToTheHostIdentity : Obligations.ReplyDecodesToTheHostIdentity := by
  intro addresses pad hs ps a s haddr hb htarget
  have hbuf := le_bufLen
  have hsup : arpSupported (requestMessage hs ps a pad) = true := rfl
  have hop : (requestMessage hs ps a pad).opcode = 1#16 := rfl
  have hprocess := exec_arpProcess_image (m := requestMessage hs ps a pad) haddr rfl hb s
  simp only [arpEncode_requestMessage, ← List.append_assoc] at hprocess
  generalize requestMessage hs ps a pad = req at hprocess hsup hop
  refine ⟨_, arptHas s.arpt (senderKey req a), arpReplyFrame s.hostMac s.hostIp req a,
    ⟨a.senderMac, s.hostMac, 0x0806#16, arpEncode (replyMessage s.hostMac s.hostIp req a)⟩,
    replyMessage s.hostMac s.hostIp req a, hprocess, ?_, arpReplyFrame_length .., fun u => ?_, rfl, rfl, rfl, fun u => ?_, rfl,
    fun u => ?_⟩
  · rw [answer_response, arpProcessed_of_request hsup hop htarget]
    rfl
  · rw [arpReplyFrame_eq_ethEncode, exec_ethDecode_ethEncode (by simp [replyMessage]; omega)]
    rfl
  · rw [exec_arpDecode_arpEncode (by simp [replyMessage]; omega), arpSupported_replyMessage, hsup]
  · rw [replyMessage, ← List.append_nil (arpv4Encode _), exec_arpv4Decode_arpv4Encode (by simp; omega)]
    rfl

end Sys2Proof.Proofs

/-!
Errors, refusals and idling. `responseTo_status_mem` finds a response's status in the table of R129, `exec_of_not_wellFormed` names
the refusal of a command outside the admitted domain (R134), and `tableEffect_of_failed` says that a failed check writes nothing to
the ARP table (R131).
-/

namespace Sys2Proof.Proofs

open Sys2Proof.Machine Sys2Proof.Safety

/-! ### Statuses (R129, R130) -/

theorem ok_mem_mayReturn (i : Instr) : .ok ∈ mayReturn i := by
  cases i <;> exact List.mem_cons_self

/-- No command may return a status whose code is above 0x05 (R129). -/
theorem statusCode_of_mem_mayReturn {i : Instr} {st : Status} (h : st ∈ mayReturn i) :
    statusCode st ∈ [0x00#8, 0x01#8, 0x02#8, 0x03#8, 0x04#8, 0x05#8] := by
  cases st with
  | unhandledProtocol => exact absurd rfl (ne_unhandledProtocol_of_mem_mayReturn h)
  | illegalCommand => cases i <;> simp [mayReturn] at h
  | _ => simp [statusCode]

/-- A frame that passes the checks of R124 is answered OK or UNSUPPORTED_LAYER. -/
theorem accepted_arpProcess_status (b : Bytes) (s : State) :
    (accepted (.arpProcess b) s).status = .ok ∨ (accepted (.arpProcess b) s).status = .unsupportedLayer :=
  (accepted_flags _ s).imp And.left And.left

theorem accepted_status_mem (i : Instr) (s : State) : (accepted i s).status ∈ mayReturn i := by
  cases i with
  | arpProcess b =>
    obtain h | h := accepted_arpProcess_status b s <;> simp [h, mayReturn]
  | _ => exact ok_mem_mayReturn _

/-- A command answers a status of its rows in R129's table: a check's own, or the accepted response's. -/
theorem responseTo_status_mem (i : Instr) (s : State) : (responseTo i s).status ∈ mayReturn i := by
  obtain ⟨st, hst, -, -, h⟩ | h := responseTo_checkedThen i s <;> rw [h]
  · exact hst
  · exact accepted_status_mem i s

/-- Settles O52: the status by `responseTo_status_mem`, the missing result by the response's own well-formedness. -/
theorem statusesAreThoseOfTheTable : Obligations.StatusesAreThoseOfTheTable := by
  intro i s t h
  obtain ⟨hwf, rfl⟩ := exec_next.1 h
  obtain ⟨-, -, hresult⟩ := responseTo_responseOk hwf s
  have hst := responseTo_status_mem i s
  exact ⟨responseTo i s, rfl, hst, hresult, statusCode_of_mem_mayReturn hst⟩

/-! ### Errors and the ARP table (R131) -/

theorem exists_eq_arpProcess_of_mem_mayReturn {i : Instr} (h : .unsupportedLayer ∈ mayReturn i) : ∃ b, i = .arpProcess b := by
  cases i with
  | arpProcess b => exact ⟨b, rfl⟩
  | _ => simp [mayReturn] at h

/-- A failed check writes nothing: of the commands that write the table only ARP_PROCESS makes checks, and it makes them first. -/
theorem tableEffect_of_failed {i : Instr} {s : State} (hok : (responseTo i s).status ≠ .ok)
    (hul : (responseTo i s).status ≠ .unsupportedLayer) : tableEffect i s = s := by
  cases i with
  | arpUpdate | arpInsert | arpMerge => exact absurd rfl hok
  | arpProcess b =>
    obtain ⟨st, -, h⟩ | h := arpInbound_cases b
    · simp only [tableEffect, h]
    · simp only [responseTo, h] at hok hul
      exact (accepted_arpProcess_status b s).elim (absurd · hok) (absurd · hul)
  | _ => rfl

/-- UNSUPPORTED_LAYER is ARP_PROCESS's answer to a frame that passed the checks of R124. -/
theorem arpInbound_of_unsupportedLayer {i : Instr} {s : State} (h : (responseTo i s).status = .unsupportedLayer) :
    ∃ b m a, i = .arpProcess b ∧ arpInbound b = .ok (m, a) := by
  obtain ⟨b, rfl⟩ := exists_eq_arpProcess_of_mem_mayReturn (h ▸ responseTo_status_mem i s)
  obtain ⟨st, rfl | rfl, hb⟩ | hb := arpInbound_cases b
  · simp [responseTo, hb, raise] at h
  · simp [responseTo, hb, raise] at h
  · exact ⟨b, _, _, rfl, hb⟩

/-- Settles O51: a failed check by `tableEffect_of_failed`; after UNSUPPORTED_LAYER the table is that of the sender's put. -/
theorem errorStatusesLeaveTheTable : Obligations.ErrorStatusesLeaveTheTable := by
  intro i s t r h hr hok
  obtain ⟨-, rfl⟩ := exec_next.1 h
  obtain rfl : responseTo i s = r := by simpa using hr
  rw [answer_arpt]
  refine ⟨fun hul => by rw [tableEffect_of_failed hok hul], fun hul => ?_⟩
  obtain ⟨b, m, a, rfl, hb⟩ := arpInbound_of_unsupportedLayer hul
  refine ⟨b, m, a, Config.victimDraw s.draws, rfl, hb, ?_⟩
  simp [tableEffect, hb, senderKey]

/-! ### Refusals (R34, R110, R134) -/

/-- A TCP segment has no length word for its pseudo-header (R110). -/
def overlongSegment (i : Instr) : Prop :=
  (∃ b src dst, i = .tcpDecodeCheck b src dst ∧ 0xFFFF < b.length) ∨
    ∃ h src dst, i = .tcpEncodeFill h src dst ∧ 0xFFFF < 20 + h.options.length + h.payload.length

theorem lt_of_fitsBuffer {n : Nat} (h : fitsBuffer n = false) : Config.bufLen < n :=
  Nat.lt_of_not_le (of_decide_eq_false h)

theorem returnBytes_of_lt {out : Bytes} (h : Config.bufLen < out.length) (s : State) :
    returnBytes out s = .refused .oversize := admitLength_of_lt h _

/-- A segment that fails one of its two length tests is refused, by BUF_LEN's name where that test fails (R132). -/
theorem admitLength_admitSegment_refused {n : Nat} (h : (fitsBuffer n && fitsSegment n) = false) (go : Out) :
    admitLength n (admitSegment n go) = .refused .oversize ∨
      admitLength n (admitSegment n go) = .refused .segmentTooLong ∧ 0xFFFF < n := by
  rcases Nat.lt_or_ge Config.bufLen n with hb | hb
  · exact .inl (admitLength_of_lt hb _)
  · have hseg : 0xFFFF < n := by
      simp only [fitsBuffer, fitsSegment, Bool.and_eq_false_iff, decide_eq_false_iff_not] at h
      omega
    exact .inr ⟨by rw [admitLength_of_le hb, admitSegment_of_lt hseg], hseg⟩

/-- An operand too short for TCP_DECODE_CHECK's first check has a length word, so the segment test may as well come first. -/
theorem execTcpDecodeCheck_eq (b : Bytes) (src dst : Ip) (s : State) :
    execTcpDecodeCheck b src dst s = admitLength b.length (admitSegment b.length
      (if b.length < 20 then respond (raise .truncatedInput) s else respond (tcpVerified b src dst) s)) := by
  rw [execTcpDecodeCheck]
  split
  · rw [admitSegment_of_le (by omega)]
  · rfl

/-- Outside the admitted domain a command is refused: OVERSIZE, or SEGMENT_TOO_LONG for a segment over 0xFFFF bytes. -/
theorem exec_of_not_wellFormed {i : Instr} (h : i.wellFormed = false) (s : State) :
    exec i s = .refused .oversize ∨ exec i s = .refused .segmentTooLong ∧ overlongSegment i := by
  cases i with
  | csumPseudo | arpv4Encode | arpLookup | arpUpdate | arpInsert | arpMerge => cases h
  | csumSum16 | csumChecksum | csumVerify | ethDecode | arpDecode | arpv4Decode | ipv4Decode | icmpDecode | tcpDecode |
      arpProcess =>
    exact .inl (admitLength_of_lt (lt_of_fitsBuffer h) _)
  | ethEncode | arpEncode | ipv4Encode | ipv4EncodeFill | icmpEncode | icmpEncodeFill | tcpEncode =>
    rw [exec]
    exact .inl (returnBytes_of_lt (by simpa using lt_of_fitsBuffer h) s)
  | tcpDecodeCheck b src dst =>
    rw [exec, execTcpDecodeCheck_eq]
    exact (admitLength_admitSegment_refused h _).imp_right (And.imp_right fun hlt => .inl ⟨b, src, dst, rfl, hlt⟩)
  | tcpEncodeFill hd src dst =>
    rw [exec, execTcpEncodeFill, tcpEncodeFill_length]
    exact (admitLength_admitSegment_refused h _).imp_right (And.imp_right fun hlt => .inr ⟨hd, src, dst, rfl, hlt⟩)

/-- In the admitted domain a command answers. -/
theorem exec_of_wellFormed {i : Instr} (h : i.wellFormed = true) (s : State) :
    exec i s = .next (answer (responseTo i s) (tableEffect i s)) := exec_next.2 ⟨h, rfl⟩

/-- Settles O54: `exec_of_wellFormed` inside the admitted domain, `exec_of_not_wellFormed` outside it. -/
theorem refusalIsExactlyTheInadmissible : Obligations.RefusalIsExactlyTheInadmissible :=
  fun i s => ⟨fun h => ⟨_, responseTo i s, exec_of_wellFormed h s, rfl, rfl⟩, fun h => exec_of_not_wellFormed h s⟩

/-! ### After a response (R128, R143) -/

/-- Settles O55: a decoded command by the two sides of the admitted domain, a reserved code by its port strings' lengths. -/
theorem everyPresentedCommandIsAnswered : Obligations.EveryPresentedCommandIsAnswered := by
  intro c s hreset
  by_cases hcode : c.op.toNat ∈ rowCodes
  · obtain ⟨i, hi⟩ := exists_decode_eq_ok.2 hcode
    rw [step_of_decode_ok (s := present c s) hreset rfl hi]
    cases hwf : i.wellFormed with
    | true => exact .inl ⟨_, _, exec_of_wellFormed hwf _, rfl, rfl, by simpa using hreset⟩
    | false =>
      obtain h | ⟨h, -⟩ := exec_of_not_wellFormed hwf (present c s)
      · exact .inr (.inl ⟨i, _, hi, hwf, h, .inl rfl⟩)
      · exact .inr (.inl ⟨i, _, hi, hwf, h, .inr rfl⟩)
  · have hc := decode_eq_error.2 hcode
    rw [step_of_decode_error (s := present c s) hreset rfl hc]
    by_cases hfit : ∀ b ∈ portBytes c.operands, b.length ≤ Config.bufLen
    · exact .inl ⟨_, _, execReserved_of_le hfit _, rfl, rfl, hreset⟩
    · have hlong : ∃ b ∈ portBytes c.operands, Config.bufLen < b.length := by simpa using hfit
      exact .inr (.inr ⟨hc, hlong, execReserved_of_lt hlong _⟩)

/-- Settles O58: the step's own branch for an empty command port. -/
theorem idleBlockKeepsItsState : Obligations.IdleBlockKeepsItsState := by
  intro s hreset hcmd
  simp [step, hreset, hcmd]

end Sys2Proof.Proofs

/-!
Reset (R35, R145). `step_of_resetInput` is the step's branch for an asserted reset input; the fields of the state it leads to are
the `applyReset_…` laws of the state.
-/

namespace Sys2Proof.Proofs

open Sys2Proof.Machine

/-- The reset input is read before the ports: the step is the reset event whatever command is in flight (R145). -/
theorem step_of_resetInput {s : State} (hreset : s.resetInput = true) : step s = .next (applyReset s) := by
  simp [step, hreset]

/-- Settles O57: the step is the reset event, whose laws give the fields; the state after reset is read off. -/
theorem resetEmptiesTheBlock : Obligations.ResetEmptiesTheBlock := by
  refine ⟨fun s hreset => ⟨applyReset s, step_of_resetInput hreset, ?_⟩, rfl, rfl, rfl, rfl, rfl⟩
  exact ⟨applyReset_arpt s, applyReset_hostMac s, applyReset_hostIp s, applyReset_command s, applyReset_response s⟩

end Sys2Proof.Proofs
